-- ==== Sys2Proof/Word.lean ====
section
/-! DEFINITION. The word types of JVB-CORE (spec/00_scope.md R7, R19): bytes, 16-bit half-words, 32-bit words,
and the 5-bit register number. -/

namespace Sys2Proof

/-- 8 bits (R19). -/
abbrev Byte := BitVec 8

/-- A half-word, 16 bits: the instruction unit (R7, R19). -/
abbrev Half := BitVec 16

/-- A word, 32 bits: a general register, the program counter, an effective address (R7, R19). -/
abbrev Word := BitVec 32

/-- The number of a general register as a 5-bit instruction field (R30). -/
abbrev Reg := BitVec 5

/-- A system register number as a 5-bit instruction field (R50). -/
abbrev SysReg := BitVec 5

end Sys2Proof
end

