-- ==== Sys2Proof/Machine/Bits.lean ====
section
/-! DEFINITION. The bit-field primitives of the source (spec/00_scope.md R11) and the byte order of half-words
(20_memory.md R106). -/

namespace Sys2Proof

/-- The 32-bit word with ones in bits `pos+len-1 .. pos`. -/
def fieldMask (pos len : Nat) : Word := BitVec.ofNat 32 (2 ^ len - 1) <<< pos

/-- `extractUnsigned(value, pos, len)`: the field, zero-extended (R11). -/
def extractUnsigned (value : Word) (pos len : Nat) : Word := (value.extractLsb' pos len).setWidth 32

/-- `extractSigned(value, pos, len)`: the field, its bit `len-1` copied upward (R11). -/
def extractSigned (value : Word) (pos len : Nat) : Word := (value.extractLsb' pos len).signExtend 32

/-- `sext_N(v)`: sign extension to a word (R11). -/
def sext {n : Nat} (v : BitVec n) : Word := v.signExtend 32

/-- `zext_N(v)`: zero extension to a word (R11). -/
def zext {n : Nat} (v : BitVec n) : Word := v.setWidth 32

/-- `insert(value, pos, len, into)`: `into` with the field replaced, every other bit preserved (R11). -/
def insertField (value : Word) (pos len : Nat) (into : Word) : Word :=
  (into &&& ~~~fieldMask pos len) ||| ((value <<< pos) &&& fieldMask pos len)

/-- `insert` of a one-bit field. -/
def setBit (into : Word) (pos : Nat) (b : Bool) : Word :=
  insertField (if b then 1#32 else 0#32) pos 1 into

/-- The half-word whose low byte is `lo` and whose high byte is `hi`: little-endian order (20_memory.md R106). -/
def halfOfBytes (lo hi : Byte) : Half := hi ++ lo

/-- The two bytes of a half-word as stored, the lower address first (20_memory.md R106). -/
def bytesOfHalf (h : Half) : List Byte := [h.extractLsb' 0 8, h.extractLsb' 8 8]

end Sys2Proof
end

