-- ==== Sys2Proof/Syntax.lean ====
section
/-! DEFINITION. The instructions of JVB-CORE: one constructor per row of spec/opcode_table.json, in the table's
order, its fields those of 30_encoding.md R144 to R150. A field named `unused` holds the bits R157 calls ignored: the
syntax keeps them (log 17), and no meaning reads them. -/

namespace Sys2Proof

inductive Instr where
  -- Format I (R144): reg1 = w0[4:0], reg2 = w0[9:5]
  | mov (reg1 reg2 : Reg)
  | add (reg1 reg2 : Reg)
  | sub (reg1 reg2 : Reg)
  | cmp (reg1 reg2 : Reg)
  | shl (reg1 reg2 : Reg)
  | shr (reg1 reg2 : Reg)
  | jmp (reg1 : Reg) (unused : BitVec 5)
  | sar (reg1 reg2 : Reg)
  | mul (reg1 reg2 : Reg)
  | div (reg1 reg2 : Reg)
  | mulu (reg1 reg2 : Reg)
  | divu (reg1 reg2 : Reg)
  | or (reg1 reg2 : Reg)
  | and (reg1 reg2 : Reg)
  | xor (reg1 reg2 : Reg)
  | not (reg1 reg2 : Reg)
  -- Format II (R145): imm5 = w0[4:0], reg2 = w0[9:5]
  | movImm (imm5 : BitVec 5) (reg2 : Reg)
  | addImm (imm5 : BitVec 5) (reg2 : Reg)
  | setf (unused : BitVec 1) (cond4 : BitVec 4) (reg2 : Reg)
  | cmpImm (imm5 : BitVec 5) (reg2 : Reg)
  | shlImm (imm5 : BitVec 5) (reg2 : Reg)
  | shrImm (imm5 : BitVec 5) (reg2 : Reg)
  | cli (unused : BitVec 10)
  | sarImm (imm5 : BitVec 5) (reg2 : Reg)
  | trap (vector : BitVec 5) (unused : BitVec 5)
  | reti (unused : BitVec 10)
  | halt (unused : BitVec 10)
  | illegal1B (unused : BitVec 10)
  | ldsr (reg2 : Reg) (regID : SysReg)
  | stsr (regID : SysReg) (reg2 : Reg)
  | sei (unused : BitVec 10)
  -- the bit-string group (R152)
  | bitstring (unused : BitVec 10)
  -- Format III (R146)
  | bv (disp9 : BitVec 9)
  | bc (disp9 : BitVec 9)
  | be (disp9 : BitVec 9)
  | bnh (disp9 : BitVec 9)
  | bn (disp9 : BitVec 9)
  | br (disp9 : BitVec 9)
  | blt (disp9 : BitVec 9)
  | ble (disp9 : BitVec 9)
  | bnv (disp9 : BitVec 9)
  | bnc (disp9 : BitVec 9)
  | bne (disp9 : BitVec 9)
  | bh (disp9 : BitVec 9)
  | bp (disp9 : BitVec 9)
  | nop (disp9 : BitVec 9)
  | bge (disp9 : BitVec 9)
  | bgt (disp9 : BitVec 9)
  -- Formats IV (R147) and V (R148)
  | movea (imm16 : Half) (reg1 reg2 : Reg)
  | addi (imm16 : Half) (reg1 reg2 : Reg)
  | jr (disp26 : BitVec 26)
  | jal (disp26 : BitVec 26)
  | ori (imm16 : Half) (reg1 reg2 : Reg)
  | andi (imm16 : Half) (reg1 reg2 : Reg)
  | xori (imm16 : Half) (reg1 reg2 : Reg)
  | movhi (imm16 : Half) (reg1 reg2 : Reg)
  -- Format VI (R149): reg1 the base, reg2 the data register
  | ldB (disp16 : Half) (reg1 reg2 : Reg)
  | ldH (disp16 : Half) (reg1 reg2 : Reg)
  | illegal32 (unused : BitVec 10)
  | ldW (disp16 : Half) (reg1 reg2 : Reg)
  | stB (reg2 : Reg) (disp16 : Half) (reg1 : Reg)
  | stH (reg2 : Reg) (disp16 : Half) (reg1 : Reg)
  | illegal36 (unused : BitVec 10)
  | stW (reg2 : Reg) (disp16 : Half) (reg1 : Reg)
  | inB (disp16 : Half) (reg1 reg2 : Reg)
  | inH (disp16 : Half) (reg1 reg2 : Reg)
  | caxi (disp16 : Half) (reg1 reg2 : Reg)
  | inW (disp16 : Half) (reg1 reg2 : Reg)
  | outB (reg2 : Reg) (disp16 : Half) (reg1 : Reg)
  | outH (reg2 : Reg) (disp16 : Half) (reg1 : Reg)
  -- Format VII (R150): w1[9:0] unused
  | cmpfS (reg1 reg2 : Reg) (unused : BitVec 10)
  | cvtWS (reg1 reg2 : Reg) (unused : BitVec 10)
  | cvtSW (reg1 reg2 : Reg) (unused : BitVec 10)
  | addfS (reg1 reg2 : Reg) (unused : BitVec 10)
  | subfS (reg1 reg2 : Reg) (unused : BitVec 10)
  | mulfS (reg1 reg2 : Reg) (unused : BitVec 10)
  | divfS (reg1 reg2 : Reg) (unused : BitVec 10)
  | xb (reg1 reg2 : Reg) (unused : BitVec 10)
  | xh (reg1 reg2 : Reg) (unused : BitVec 10)
  | rev (reg1 reg2 : Reg) (unused : BitVec 10)
  | trncSW (reg1 reg2 : Reg) (unused : BitVec 10)
  | mpyhw (reg1 reg2 : Reg) (unused : BitVec 10)
  -- the unrecognized sub-opcodes of Format VII (48_subopcode.md R415), grouped as the table's rows group them
  | illegal3E01 (reg1 reg2 : Reg) (unused : BitVec 10)
  | illegal3E0D (reg1 reg2 : Reg) (unused : BitVec 10)
  | illegal3E0E (reg1 reg2 : Reg) (sub : BitVec 6) (unused : BitVec 10)
  | illegal3E10 (reg1 reg2 : Reg) (sub : BitVec 6) (unused : BitVec 10)
  | illegal3E20 (reg1 reg2 : Reg) (sub : BitVec 6) (unused : BitVec 10)
  | outW (reg2 : Reg) (disp16 : Half) (reg1 : Reg)
deriving DecidableEq, Repr

end Sys2Proof
end

