-- ==== Sys2Proof/WellFormed.lean ====
section
/-! DEFINITION. Which terms of `Instr` are instructions. The fields' widths are the encoding's own, so the only checks
are the ranges of the sub-opcode in the three grouped ILLEGAL rows of spec/opcode_table.json (30_encoding.md R156,
R163). -/

namespace Sys2Proof

/-- The term stands for an instruction word: a grouped ILLEGAL row holds a sub-opcode of its own range. -/
def Instr.wellFormed : Instr → Bool
  | .illegal3E0E _ _ code _ => decide (0x0E ≤ code.toNat ∧ code.toNat ≤ 0x0F)
  | .illegal3E10 _ _ code _ => decide (0x10 ≤ code.toNat ∧ code.toNat ≤ 0x1F)
  | .illegal3E20 _ _ code _ => decide (0x20 ≤ code.toNat ∧ code.toNat ≤ 0x3F)
  | .mov .. | .add .. | .sub .. | .cmp .. | .shl .. | .shr .. | .jmp .. | .sar .. | .mul .. | .div ..
  | .mulu .. | .divu .. | .or .. | .and .. | .xor .. | .not .. | .movImm .. | .addImm .. | .setf ..
  | .cmpImm .. | .shlImm .. | .shrImm .. | .cli .. | .sarImm .. | .trap .. | .reti .. | .halt ..
  | .illegal1B .. | .ldsr .. | .stsr .. | .sei .. | .bitstring .. | .bv .. | .bc .. | .be .. | .bnh ..
  | .bn .. | .br .. | .blt .. | .ble .. | .bnv .. | .bnc .. | .bne .. | .bh .. | .bp .. | .nop .. | .bge ..
  | .bgt .. | .movea .. | .addi .. | .jr .. | .jal .. | .ori .. | .andi .. | .xori .. | .movhi .. | .ldB ..
  | .ldH .. | .illegal32 .. | .ldW .. | .stB .. | .stH .. | .illegal36 .. | .stW .. | .inB .. | .inH ..
  | .caxi .. | .inW .. | .outB .. | .outH .. | .cmpfS .. | .cvtWS .. | .cvtSW .. | .addfS .. | .subfS ..
  | .mulfS .. | .divfS .. | .xb .. | .xh .. | .rev .. | .trncSW .. | .mpyhw .. | .illegal3E01 ..
  | .illegal3E0D .. | .outW .. => true

end Sys2Proof
end

