-- ==== Sys2Proof/Decode.lean ====
section
/-! DEFINITION. The decoder of spec/30_encoding.md (R141 to R157), total on every pair of half-words, the decoder of
bytes, which refuses by name only a list that ends too early, and the encoder written from the same format tables
(R144 to R150). Every opcode value is general knowledge of the V810 in the spec itself (R154; log 15). -/

namespace Sys2Proof

/-! ### Fields (R144 to R150) -/

/-- The primary opcode `w0[15:10]`. -/
def opcodeOf (w0 : Half) : BitVec 6 := w0.extractLsb' 10 6

/-- `reg2 = w0[9:5]`. -/
def reg2Of (w0 : Half) : Reg := w0.extractLsb' 5 5

/-- `reg1 = w0[4:0]`, which Format II reads as `imm5`, `regID` or the vector. -/
def reg1Of (w0 : Half) : BitVec 5 := w0.extractLsb' 0 5

/-- `w0[9:0]`, or `w1[9:0]` of Format VII. -/
def low10Of (w : Half) : BitVec 10 := w.extractLsb' 0 10

/-- The condition of Format III, `w0[12:9]`. -/
def condOf (w0 : Half) : BitVec 4 := w0.extractLsb' 9 4

/-- `disp9 = w0[8:0]`. -/
def disp9Of (w0 : Half) : BitVec 9 := w0.extractLsb' 0 9

/-- `disp26 = w0[9:0] ++ w1[15:0]` (R147, R153). -/
def disp26Of (w0 w1 : Half) : BitVec 26 := low10Of w0 ++ w1

/-- The sub-opcode of Format VII, `w1[15:10]` (R150). -/
def subOf (w1 : Half) : BitVec 6 := w1.extractLsb' 10 6

/-! ### Lengths (R142, R155) -/

/-- The length in bytes of an instruction by its primary opcode, as spec/opcode_table.json gives it: 4 for Formats IV to
VII, 2 for the rest and for the illegal opcodes `0x32` and `0x36`, whose second half-word is never fetched (R155). -/
def instrLength (w0 : Half) : Nat :=
  if (opcodeOf w0).toNat < 0x28 then 2
  else if opcodeOf w0 = 0x32#6 ∨ opcodeOf w0 = 0x36#6 then 2
  else 4

/-! ### The decoder -/

/-- The sixteen conditional branches (40_branch.md R200 to R216). -/
def decodeBranch (cond : BitVec 4) (disp9 : BitVec 9) : Instr :=
  match cond with
  | 0x0#4 => .bv disp9
  | 0x1#4 => .bc disp9
  | 0x2#4 => .be disp9
  | 0x3#4 => .bnh disp9
  | 0x4#4 => .bn disp9
  | 0x5#4 => .br disp9
  | 0x6#4 => .blt disp9
  | 0x7#4 => .ble disp9
  | 0x8#4 => .bnv disp9
  | 0x9#4 => .bnc disp9
  | 0xA#4 => .bne disp9
  | 0xB#4 => .bh disp9
  | 0xC#4 => .bp disp9
  | 0xD#4 => .nop disp9
  | 0xE#4 => .bge disp9
  | _ => .bgt disp9

/-- Format VII by its sub-opcode (48_subopcode.md R402, R415). -/
def decodeSub (reg1 reg2 : Reg) (code : BitVec 6) (unused : BitVec 10) : Instr :=
  match code with
  | 0x00#6 => .cmpfS reg1 reg2 unused
  | 0x01#6 => .illegal3E01 reg1 reg2 unused
  | 0x02#6 => .cvtWS reg1 reg2 unused
  | 0x03#6 => .cvtSW reg1 reg2 unused
  | 0x04#6 => .addfS reg1 reg2 unused
  | 0x05#6 => .subfS reg1 reg2 unused
  | 0x06#6 => .mulfS reg1 reg2 unused
  | 0x07#6 => .divfS reg1 reg2 unused
  | 0x08#6 => .xb reg1 reg2 unused
  | 0x09#6 => .xh reg1 reg2 unused
  | 0x0A#6 => .rev reg1 reg2 unused
  | 0x0B#6 => .trncSW reg1 reg2 unused
  | 0x0C#6 => .mpyhw reg1 reg2 unused
  | 0x0D#6 => .illegal3E0D reg1 reg2 unused
  | other =>
    if other.toNat < 0x10 then .illegal3E0E reg1 reg2 other unused
    else if other.toNat < 0x20 then .illegal3E10 reg1 reg2 other unused
    else .illegal3E20 reg1 reg2 other unused

/-- The instruction of the half-words `w0` and `w1` (R154). Where the instruction is 2 bytes long `w1` is not read. -/
def decode (w0 w1 : Half) : Instr :=
  match opcodeOf w0 with
  | 0x00#6 => .mov (reg1Of w0) (reg2Of w0)
  | 0x01#6 => .add (reg1Of w0) (reg2Of w0)
  | 0x02#6 => .sub (reg1Of w0) (reg2Of w0)
  | 0x03#6 => .cmp (reg1Of w0) (reg2Of w0)
  | 0x04#6 => .shl (reg1Of w0) (reg2Of w0)
  | 0x05#6 => .shr (reg1Of w0) (reg2Of w0)
  | 0x06#6 => .jmp (reg1Of w0) (reg2Of w0)
  | 0x07#6 => .sar (reg1Of w0) (reg2Of w0)
  | 0x08#6 => .mul (reg1Of w0) (reg2Of w0)
  | 0x09#6 => .div (reg1Of w0) (reg2Of w0)
  | 0x0A#6 => .mulu (reg1Of w0) (reg2Of w0)
  | 0x0B#6 => .divu (reg1Of w0) (reg2Of w0)
  | 0x0C#6 => .or (reg1Of w0) (reg2Of w0)
  | 0x0D#6 => .and (reg1Of w0) (reg2Of w0)
  | 0x0E#6 => .xor (reg1Of w0) (reg2Of w0)
  | 0x0F#6 => .not (reg1Of w0) (reg2Of w0)
  | 0x10#6 => .movImm (reg1Of w0) (reg2Of w0)
  | 0x11#6 => .addImm (reg1Of w0) (reg2Of w0)
  | 0x12#6 => .setf (w0.extractLsb' 4 1) (w0.extractLsb' 0 4) (reg2Of w0)
  | 0x13#6 => .cmpImm (reg1Of w0) (reg2Of w0)
  | 0x14#6 => .shlImm (reg1Of w0) (reg2Of w0)
  | 0x15#6 => .shrImm (reg1Of w0) (reg2Of w0)
  | 0x16#6 => .cli (low10Of w0)
  | 0x17#6 => .sarImm (reg1Of w0) (reg2Of w0)
  | 0x18#6 => .trap (reg1Of w0) (reg2Of w0)
  | 0x19#6 => .reti (low10Of w0)
  | 0x1A#6 => .halt (low10Of w0)
  | 0x1B#6 => .illegal1B (low10Of w0)
  | 0x1C#6 => .ldsr (reg2Of w0) (reg1Of w0)
  | 0x1D#6 => .stsr (reg1Of w0) (reg2Of w0)
  | 0x1E#6 => .sei (low10Of w0)
  | 0x1F#6 => .bitstring (low10Of w0)
  | 0x20#6 => decodeBranch (condOf w0) (disp9Of w0)
  | 0x21#6 => decodeBranch (condOf w0) (disp9Of w0)
  | 0x22#6 => decodeBranch (condOf w0) (disp9Of w0)
  | 0x23#6 => decodeBranch (condOf w0) (disp9Of w0)
  | 0x24#6 => decodeBranch (condOf w0) (disp9Of w0)
  | 0x25#6 => decodeBranch (condOf w0) (disp9Of w0)
  | 0x26#6 => decodeBranch (condOf w0) (disp9Of w0)
  | 0x27#6 => decodeBranch (condOf w0) (disp9Of w0)
  | 0x28#6 => .movea w1 (reg1Of w0) (reg2Of w0)
  | 0x29#6 => .addi w1 (reg1Of w0) (reg2Of w0)
  | 0x2A#6 => .jr (disp26Of w0 w1)
  | 0x2B#6 => .jal (disp26Of w0 w1)
  | 0x2C#6 => .ori w1 (reg1Of w0) (reg2Of w0)
  | 0x2D#6 => .andi w1 (reg1Of w0) (reg2Of w0)
  | 0x2E#6 => .xori w1 (reg1Of w0) (reg2Of w0)
  | 0x2F#6 => .movhi w1 (reg1Of w0) (reg2Of w0)
  | 0x30#6 => .ldB w1 (reg1Of w0) (reg2Of w0)
  | 0x31#6 => .ldH w1 (reg1Of w0) (reg2Of w0)
  | 0x32#6 => .illegal32 (low10Of w0)
  | 0x33#6 => .ldW w1 (reg1Of w0) (reg2Of w0)
  | 0x34#6 => .stB (reg2Of w0) w1 (reg1Of w0)
  | 0x35#6 => .stH (reg2Of w0) w1 (reg1Of w0)
  | 0x36#6 => .illegal36 (low10Of w0)
  | 0x37#6 => .stW (reg2Of w0) w1 (reg1Of w0)
  | 0x38#6 => .inB w1 (reg1Of w0) (reg2Of w0)
  | 0x39#6 => .inH w1 (reg1Of w0) (reg2Of w0)
  | 0x3A#6 => .caxi w1 (reg1Of w0) (reg2Of w0)
  | 0x3B#6 => .inW w1 (reg1Of w0) (reg2Of w0)
  | 0x3C#6 => .outB (reg2Of w0) w1 (reg1Of w0)
  | 0x3D#6 => .outH (reg2Of w0) w1 (reg1Of w0)
  | 0x3E#6 => decodeSub (reg1Of w0) (reg2Of w0) (subOf w1) (low10Of w1)
  -- 0x3F, the one opcode left
  | _ => .outW (reg2Of w0) w1 (reg1Of w0)

/-- Why a list of bytes is no instruction: it ends before the instruction does. No pattern of bits is refused (R159:
an unrecognized pattern is an ILLEGAL row). -/
inductive DecodeError where
  | noFirstHalf
  | noSecondHalf
deriving DecidableEq, Repr

/-- The instruction at the head of a list of bytes, the lowest address first (R106, R141). -/
def decodeBytes : List Byte → Except DecodeError Instr
  | b0 :: b1 :: rest =>
    if instrLength (halfOfBytes b0 b1) = 2 then .ok (decode (halfOfBytes b0 b1) 0#16)
    else
      match rest with
      | b2 :: b3 :: _ => .ok (decode (halfOfBytes b0 b1) (halfOfBytes b2 b3))
      | _ => .error .noSecondHalf
  | _ => .error .noFirstHalf

/-! ### The encoder (R144 to R150) -/

/-- Formats I, II, V, VI and VII: opcode, reg2, reg1 or imm5. -/
def formRegs (opcode : BitVec 6) (reg2 : Reg) (reg1 : BitVec 5) : Half := opcode ++ reg2 ++ reg1

/-- A half-word whose low ten bits are one field: Format IV, the ignored fields, `w1` of Format VII. -/
def formLow10 (opcode : BitVec 6) (low : BitVec 10) : Half := opcode ++ low

/-- Format III. -/
def formBranch (cond : BitVec 4) (disp9 : BitVec 9) : Half := 0b100#3 ++ cond ++ disp9

/-- The first half-word of an instruction. -/
def word0 : Instr → Half
  | .mov r1 r2 => formRegs 0x00#6 r2 r1
  | .add r1 r2 => formRegs 0x01#6 r2 r1
  | .sub r1 r2 => formRegs 0x02#6 r2 r1
  | .cmp r1 r2 => formRegs 0x03#6 r2 r1
  | .shl r1 r2 => formRegs 0x04#6 r2 r1
  | .shr r1 r2 => formRegs 0x05#6 r2 r1
  | .jmp r1 u => formRegs 0x06#6 u r1
  | .sar r1 r2 => formRegs 0x07#6 r2 r1
  | .mul r1 r2 => formRegs 0x08#6 r2 r1
  | .div r1 r2 => formRegs 0x09#6 r2 r1
  | .mulu r1 r2 => formRegs 0x0A#6 r2 r1
  | .divu r1 r2 => formRegs 0x0B#6 r2 r1
  | .or r1 r2 => formRegs 0x0C#6 r2 r1
  | .and r1 r2 => formRegs 0x0D#6 r2 r1
  | .xor r1 r2 => formRegs 0x0E#6 r2 r1
  | .not r1 r2 => formRegs 0x0F#6 r2 r1
  | .movImm imm r2 => formRegs 0x10#6 r2 imm
  | .addImm imm r2 => formRegs 0x11#6 r2 imm
  | .setf u c r2 => formRegs 0x12#6 r2 (u ++ c)
  | .cmpImm imm r2 => formRegs 0x13#6 r2 imm
  | .shlImm imm r2 => formRegs 0x14#6 r2 imm
  | .shrImm imm r2 => formRegs 0x15#6 r2 imm
  | .cli u => formLow10 0x16#6 u
  | .sarImm imm r2 => formRegs 0x17#6 r2 imm
  | .trap v u => formRegs 0x18#6 u v
  | .reti u => formLow10 0x19#6 u
  | .halt u => formLow10 0x1A#6 u
  | .illegal1B u => formLow10 0x1B#6 u
  | .ldsr r2 id => formRegs 0x1C#6 r2 id
  | .stsr id r2 => formRegs 0x1D#6 r2 id
  | .sei u => formLow10 0x1E#6 u
  | .bitstring u => formLow10 0x1F#6 u
  | .bv d => formBranch 0x0#4 d
  | .bc d => formBranch 0x1#4 d
  | .be d => formBranch 0x2#4 d
  | .bnh d => formBranch 0x3#4 d
  | .bn d => formBranch 0x4#4 d
  | .br d => formBranch 0x5#4 d
  | .blt d => formBranch 0x6#4 d
  | .ble d => formBranch 0x7#4 d
  | .bnv d => formBranch 0x8#4 d
  | .bnc d => formBranch 0x9#4 d
  | .bne d => formBranch 0xA#4 d
  | .bh d => formBranch 0xB#4 d
  | .bp d => formBranch 0xC#4 d
  | .nop d => formBranch 0xD#4 d
  | .bge d => formBranch 0xE#4 d
  | .bgt d => formBranch 0xF#4 d
  | .movea _ r1 r2 => formRegs 0x28#6 r2 r1
  | .addi _ r1 r2 => formRegs 0x29#6 r2 r1
  | .jr d => formLow10 0x2A#6 (d.extractLsb' 16 10)
  | .jal d => formLow10 0x2B#6 (d.extractLsb' 16 10)
  | .ori _ r1 r2 => formRegs 0x2C#6 r2 r1
  | .andi _ r1 r2 => formRegs 0x2D#6 r2 r1
  | .xori _ r1 r2 => formRegs 0x2E#6 r2 r1
  | .movhi _ r1 r2 => formRegs 0x2F#6 r2 r1
  | .ldB _ r1 r2 => formRegs 0x30#6 r2 r1
  | .ldH _ r1 r2 => formRegs 0x31#6 r2 r1
  | .illegal32 u => formLow10 0x32#6 u
  | .ldW _ r1 r2 => formRegs 0x33#6 r2 r1
  | .stB r2 _ r1 => formRegs 0x34#6 r2 r1
  | .stH r2 _ r1 => formRegs 0x35#6 r2 r1
  | .illegal36 u => formLow10 0x36#6 u
  | .stW r2 _ r1 => formRegs 0x37#6 r2 r1
  | .inB _ r1 r2 => formRegs 0x38#6 r2 r1
  | .inH _ r1 r2 => formRegs 0x39#6 r2 r1
  | .caxi _ r1 r2 => formRegs 0x3A#6 r2 r1
  | .inW _ r1 r2 => formRegs 0x3B#6 r2 r1
  | .outB r2 _ r1 => formRegs 0x3C#6 r2 r1
  | .outH r2 _ r1 => formRegs 0x3D#6 r2 r1
  | .cmpfS r1 r2 _ => formRegs 0x3E#6 r2 r1
  | .cvtWS r1 r2 _ => formRegs 0x3E#6 r2 r1
  | .cvtSW r1 r2 _ => formRegs 0x3E#6 r2 r1
  | .addfS r1 r2 _ => formRegs 0x3E#6 r2 r1
  | .subfS r1 r2 _ => formRegs 0x3E#6 r2 r1
  | .mulfS r1 r2 _ => formRegs 0x3E#6 r2 r1
  | .divfS r1 r2 _ => formRegs 0x3E#6 r2 r1
  | .xb r1 r2 _ => formRegs 0x3E#6 r2 r1
  | .xh r1 r2 _ => formRegs 0x3E#6 r2 r1
  | .rev r1 r2 _ => formRegs 0x3E#6 r2 r1
  | .trncSW r1 r2 _ => formRegs 0x3E#6 r2 r1
  | .mpyhw r1 r2 _ => formRegs 0x3E#6 r2 r1
  | .illegal3E01 r1 r2 _ => formRegs 0x3E#6 r2 r1
  | .illegal3E0D r1 r2 _ => formRegs 0x3E#6 r2 r1
  | .illegal3E0E r1 r2 _ _ => formRegs 0x3E#6 r2 r1
  | .illegal3E10 r1 r2 _ _ => formRegs 0x3E#6 r2 r1
  | .illegal3E20 r1 r2 _ _ => formRegs 0x3E#6 r2 r1
  | .outW r2 _ r1 => formRegs 0x3F#6 r2 r1

/-- The second half-word of an instruction, where it has one. -/
def word1 : Instr → Option Half
  | .mov .. | .add .. | .sub .. | .cmp .. | .shl .. | .shr .. | .jmp .. | .sar .. | .mul .. | .div .. | .mulu ..
  | .divu .. | .or .. | .and .. | .xor .. | .not .. | .movImm .. | .addImm .. | .setf .. | .cmpImm .. | .shlImm ..
  | .shrImm .. | .cli .. | .sarImm .. | .trap .. | .reti .. | .halt .. | .illegal1B .. | .ldsr .. | .stsr ..
  | .sei .. | .bitstring .. | .bv .. | .bc .. | .be .. | .bnh .. | .bn .. | .br .. | .blt .. | .ble .. | .bnv ..
  | .bnc .. | .bne .. | .bh .. | .bp .. | .nop .. | .bge .. | .bgt .. | .illegal32 .. | .illegal36 .. => none
  | .movea imm _ _ => some imm
  | .addi imm _ _ => some imm
  | .jr d => some (d.extractLsb' 0 16)
  | .jal d => some (d.extractLsb' 0 16)
  | .ori imm _ _ => some imm
  | .andi imm _ _ => some imm
  | .xori imm _ _ => some imm
  | .movhi imm _ _ => some imm
  | .ldB d _ _ => some d
  | .ldH d _ _ => some d
  | .ldW d _ _ => some d
  | .stB _ d _ => some d
  | .stH _ d _ => some d
  | .stW _ d _ => some d
  | .inB d _ _ => some d
  | .inH d _ _ => some d
  | .caxi d _ _ => some d
  | .inW d _ _ => some d
  | .outB _ d _ => some d
  | .outH _ d _ => some d
  | .cmpfS _ _ u => some (formLow10 0x00#6 u)
  | .cvtWS _ _ u => some (formLow10 0x02#6 u)
  | .cvtSW _ _ u => some (formLow10 0x03#6 u)
  | .addfS _ _ u => some (formLow10 0x04#6 u)
  | .subfS _ _ u => some (formLow10 0x05#6 u)
  | .mulfS _ _ u => some (formLow10 0x06#6 u)
  | .divfS _ _ u => some (formLow10 0x07#6 u)
  | .xb _ _ u => some (formLow10 0x08#6 u)
  | .xh _ _ u => some (formLow10 0x09#6 u)
  | .rev _ _ u => some (formLow10 0x0A#6 u)
  | .trncSW _ _ u => some (formLow10 0x0B#6 u)
  | .mpyhw _ _ u => some (formLow10 0x0C#6 u)
  | .illegal3E01 _ _ u => some (formLow10 0x01#6 u)
  | .illegal3E0D _ _ u => some (formLow10 0x0D#6 u)
  | .illegal3E0E _ _ code u => some (formLow10 code u)
  | .illegal3E10 _ _ code u => some (formLow10 code u)
  | .illegal3E20 _ _ code u => some (formLow10 code u)
  | .outW _ d _ => some d

/-- The half-words of an instruction, the lower address first. -/
def encode (i : Instr) : List Half := word0 i :: (word1 i).toList

/-- The bytes of an instruction as the hardware stores them. -/
def encodeBytes (i : Instr) : List Byte := (encode i).flatMap bytesOfHalf

/-! ### The host's numbering of an instruction's bits -/

/-- Byte `k` of `w`, counted from the least significant. -/
def byteOf (w k : Nat) : Byte := BitVec.ofNat 8 (w >>> (8 * k))

/-- The four bytes of the instruction whose low `nbits` bits are `w` and whose other bits are 0: bit 0 is bit 0 of the
first half-word, whose byte is at the lowest address. -/
def tableBytes (nbits w : Nat) : List Byte :=
  let v := w % 2 ^ nbits
  [byteOf v 0, byteOf v 1, byteOf v 2, byteOf v 3]

/-- What the decoder reads from the instruction `w` of `nbits` bits, numbered as spec/opcode_table.json numbers them. -/
def decodeTableWord (nbits w : Nat) : Option Instr :=
  match decodeBytes (tableBytes nbits w) with
  | .ok i => some i
  | .error _ => none

end Sys2Proof
end

