-- ==== Sys2Proof/Config.lean ====
section
/-! DEFINITION. The parameters of the block (spec/00_scope.md R8, R17; spec/70_reset_and_hazards.md R635) as plain
data, and the one free value, what a device region answers. The default values are in
Sys2Proof/Machine/Platform.lean. -/

namespace Sys2Proof

/-- The capability of a region (20_memory.md R93). -/
inductive Capability where
  | readOnly
  | writeOnly
  | readWrite
deriving DecidableEq, Repr

/-- The regions whose inside belongs to a peripheral outside the block (00_scope.md R4, 20_memory.md R97). -/
inductive Device where
  | graphics
  | sound
  | hardwareControl
deriving DecidableEq, Repr

/-- How a region answers: plain memory of `backing` bytes repeated through the region (20_memory.md R111), a device
outside the block (R92), or `Unimplemented` to every request (R94, the cartridge expansion). -/
inductive RegionKind where
  | storage (backing : Nat)
  | device (d : Device)
  | unimplemented
deriving DecidableEq, Repr

/-- An entry of the region table (20_memory.md R92, R95). -/
structure Region where
  start : Nat
  size : Nat
  capability : Capability
  kind : RegionKind
deriving DecidableEq, Repr

/-- The interrupt types (60_exceptions.md R502). -/
inductive IntType where
  | reset
  | nmi
  | illegalOpcode
  | trap (vector : BitVec 5)
  | int (n : BitVec 4)
deriving DecidableEq, Repr

/-- The interrupt descriptor (60_exceptions.md R501), with the seventh attribute `level`. `restoreCurrentPc` is
carried and has no effect. -/
structure Descriptor where
  type : IntType
  exceptionCode : Half
  handler : Word
  restoreCurrentPc : Bool
  maskable : Bool
  priority : Nat
  level : Option Nat
deriving DecidableEq, Repr

/-- What becomes of a request that is not serviced in a tick (60_exceptions.md R515). -/
inductive Retention where
  | retain
  | drop
deriving DecidableEq, Repr

/-- The table `CYCLES`, one field per row of 70_reset_and_hazards.md R620. -/
structure CycleTable where
  bcondTaken : Nat
  bcondNotTaken : Nat
  jmp : Nat
  jrJal : Nat
  alu : Nat
  shift : Nat
  imm16 : Nat
  mul : Nat
  div : Nat
  divu : Nat
  load : Nat
  store : Nat
  caxi : Nat
  sysReg : Nat
  cliSei : Nat
  reti : Nat
  trap : Nat
  halt : Nat
  haltIdle : Nat
  illegal : Nat
  entry : Nat
deriving DecidableEq, Repr

/-- The named parameters of 00_scope.md R8. `itypes` lists the rows in which `ITYPES` differs from the default table
of 60_exceptions.md R502. -/
structure Config where
  ilWidth : Nat
  ilLsb : Nat
  gprSentinel : Word
  sysregSentinel : Word
  pswReset : Word
  ecrReset : Word
  pirValue : Word
  tkcwValue : Word
  regions : List Region
  itypes : List Descriptor
  retention : Retention
  admitGkInstr : Bool
  cycles : CycleTable
  linkReg : Reg
  hiReg : Reg
deriving DecidableEq, Repr

/-- DESIGN CHOICE (log 8), safe: the whole answer to the n-th device request that no scheduled answer covers: done, with the
data a read gets, or none for `Unimplemented`. 93_implementation_defined.md U2 allows any value for both and 20_memory.md R122 lets
nothing be proved of them, so nothing here says which. -/
opaque Config.deviceAnswer : Nat → Option Word

end Sys2Proof
end

