-- ==== Sys2Proof/Machine/Platform.lean ====
section
/-! DEFINITION. The default values of the parameters of spec/00_scope.md R8, the default region table (20_memory.md
R97), the default interrupt type table (60_exceptions.md R502), the default cycle table (70_reset_and_hazards.md R620),
and what a configuration must satisfy (00_scope.md R9). -/

namespace Sys2Proof.Machine

open Sys2Proof

/-! ### The interrupt type table -/

/-- The default row of `ITYPES` for a type (60_exceptions.md R502). -/
def defaultDescriptor : IntType → Descriptor
  | .reset =>
    { type := .reset, exceptionCode := 0xFFF0#16, handler := 0xFFFFFFF0#32, restoreCurrentPc := false,
      maskable := false, priority := 0, level := none }
  | .nmi =>
    { type := .nmi, exceptionCode := 0xFFD0#16, handler := 0xFFFFFFD0#32, restoreCurrentPc := false,
      maskable := false, priority := 1, level := none }
  | .illegalOpcode =>
    { type := .illegalOpcode, exceptionCode := 0xFF90#16, handler := 0xFFFFFF90#32, restoreCurrentPc := true,
      maskable := false, priority := 4, level := none }
  | .trap v =>
    { type := .trap v, exceptionCode := 0xFFA0#16 + v.setWidth 16,
      handler := if v.toNat < 16 then 0xFFFFFFA0#32 else 0xFFFFFFB0#32, restoreCurrentPc := false,
      maskable := false, priority := 5, level := none }
  | .int n =>
    { type := .int n, exceptionCode := 0xFE00#16 + 16#16 * n.setWidth 16,
      handler := 0xFFFFFE00#32 + 16#32 * n.setWidth 32, restoreCurrentPc := false,
      maskable := true, priority := 16 + (15 - n.toNat), level := some n.toNat }

/-- The descriptor of a type: the platform's own row where `ITYPES` has one, else the default row (60_exceptions.md
R501: a descriptor's fields are fully determined by its type). -/
def descriptorOf (c : Config) (t : IntType) : Descriptor :=
  (c.itypes.find? (fun d => decide (d.type = t))).getD (defaultDescriptor t)

/-! ### Default tables -/

/-- The default `REGIONS`, high to low by base address (20_memory.md R97; log 6, 7). -/
def defaultRegions : List Region :=
  [ { start := 0x07000000, size := 0x01000000, capability := .readOnly, kind := .storage 0x01000000 },
    { start := 0x06000000, size := 0x01000000, capability := .readWrite, kind := .storage 0x01000000 },
    { start := 0x05000000, size := 0x01000000, capability := .readWrite, kind := .storage 0x10000 },
    { start := 0x04000000, size := 0x01000000, capability := .readWrite, kind := .unimplemented },
    { start := 0x02000000, size := 0x01000000, capability := .readWrite, kind := .device .hardwareControl },
    { start := 0x01000000, size := 0x01000000, capability := .writeOnly, kind := .device .sound },
    { start := 0x00000000, size := 0x01000000, capability := .readWrite, kind := .device .graphics } ]

/-- The default `CYCLES` (70_reset_and_hazards.md R620). DESIGN CHOICE (log 26): 47_loadstore.md R380 says that the default counts
of IN and OUT differ from those of LD and ST, while R388, which it cites, and R620 give them equal counts (5 and 5, 4 and 4);
R388 and R620 are followed, with the one field `load` for LD and IN and the one field `store` for ST and OUT. -/
def defaultCycles : CycleTable :=
  { bcondTaken := 3, bcondNotTaken := 1, jmp := 3, jrJal := 3, alu := 1, shift := 1, imm16 := 1, mul := 13, div := 38,
    divu := 36, load := 5, store := 4, caxi := 22, sysReg := 8, cliSei := 12, reti := 10, trap := 15, halt := 1,
    haltIdle := 1, illegal := 1, entry := 1 }

/-- The default parameters (00_scope.md R8). The two sentinels have no default in the spec: `0xDEADBEEF` is a DESIGN
CHOICE (log 2, 3). -/
def defaultConfig : Config :=
  { ilWidth := 2, ilLsb := 16, gprSentinel := 0xDEADBEEF#32, sysregSentinel := 0xDEADBEEF#32,
    pswReset := 0x00008000#32, ecrReset := 0x0000FFF0#32, pirValue := 0x00005346#32, tkcwValue := 0x000000E0#32,
    regions := defaultRegions, itypes := [], retention := .retain, admitGkInstr := true, cycles := defaultCycles,
    linkReg := 31#5, hiReg := 30#5 }

/-! ### What a configuration must satisfy -/

/-- The mask of the bits a PSW can hold (10_state.md R42): `0xF3EF` and the level field. -/
def pswMask (c : Config) : Word :=
  0x0000F3EF#32 ||| (BitVec.ofNat 32 (2 ^ c.ilWidth - 1) <<< c.ilLsb)

/-- Regions are listed high to low, do not overlap and lie inside the 2^27 byte addresses (20_memory.md R96, R97). -/
def regionsWf : List Region → Bool
  | [] => true
  | g :: rest =>
    decide (g.start + g.size ≤ 2 ^ 27) && rest.all (fun h => decide (h.start + h.size ≤ g.start)) && regionsWf rest

/-- A storage region's backing divides its size and is not empty (20_memory.md R111). -/
def backingWf (g : Region) : Bool :=
  match g.kind with
  | .storage backing => decide (0 < backing ∧ g.size % backing = 0)
  | _ => true

/-- Every value of the cycle table is positive (70_reset_and_hazards.md R620). -/
def cyclesWf (t : CycleTable) : Bool :=
  decide (0 < t.bcondTaken ∧ 0 < t.bcondNotTaken ∧ 0 < t.jmp ∧ 0 < t.jrJal ∧ 0 < t.alu ∧ 0 < t.shift ∧ 0 < t.imm16 ∧
    0 < t.mul ∧ 0 < t.div ∧ 0 < t.divu ∧ 0 < t.load ∧ 0 < t.store ∧ 0 < t.caxi ∧ 0 < t.sysReg ∧ 0 < t.cliSei ∧
    0 < t.reti ∧ 0 < t.trap ∧ 0 < t.halt ∧ 0 < t.haltIdle ∧ 0 < t.illegal ∧ 0 < t.entry)

/-- One representative of each row of `ITYPES` (the Trap rows share one priority, 60_exceptions.md R502). -/
def prioritizedTypes : List IntType :=
  [.reset, .nmi, .illegalOpcode, .trap 0#5] ++ (List.range 16).map (fun n => .int (BitVec.ofNat 4 n))

/-- Every Trap row has the one priority of the Trap rows (60_exceptions.md R502). -/
def trapsShare (c : Config) : Bool :=
  (List.range 32).all (fun v =>
    decide ((descriptorOf c (.trap (BitVec.ofNat 5 v))).priority = (descriptorOf c (.trap 0#5)).priority))

/-- The priorities of a list of types are pairwise distinct. -/
def prioritiesDistinct (c : Config) : List IntType → Bool
  | [] => true
  | t :: rest =>
    rest.all (fun u => decide ((descriptorOf c t).priority ≠ (descriptorOf c u).priority)) && prioritiesDistinct c rest

/-- A row's handler address is even, and it has a level exactly if it is maskable (60_exceptions.md R501). -/
def descriptorWf (d : Descriptor) : Bool :=
  !d.handler.getLsbD 0 && d.level.isSome == d.maskable

/-- The constraints on the level field (00_scope.md R9): at least one bit, inside the word, over no other PSW field. -/
def levelFieldWf (c : Config) : Bool :=
  decide (1 ≤ c.ilWidth ∧ c.ilLsb + c.ilWidth ≤ 32) &&
    decide ((BitVec.ofNat 32 (2 ^ c.ilWidth - 1) <<< c.ilLsb) &&& 0x0000F3EF#32 = 0#32)

/-- The constraints of 00_scope.md R9 on the parameters, with those of the rules that introduce each table. -/
def configWf (c : Config) : Bool :=
  levelFieldWf c && decide (c.pswReset &&& ~~~pswMask c = 0#32) && regionsWf c.regions && c.regions.all backingWf &&
    decide ((descriptorOf c .reset).priority = 0) && prioritiesDistinct c prioritizedTypes &&
    trapsShare c && c.itypes.all descriptorWf && cyclesWf c.cycles

end Sys2Proof.Machine
end

