-- ==== Sys2Proof/Machine/State.lean ====
section
/-! DEFINITION. What a step can end in besides a next state (Fault, Refusal) and the state of the machine (spec/10_state.md):
everything the spec gives it, as plain data, and the model's own fields, each under the log entry that says why it is
there. -/

namespace Sys2Proof.Machine

open Sys2Proof

/-- The three reasons of a failed bus request (20_memory.md R101). -/
inductive BusErrorKind where
  | unmapped
  | unimplemented
  | permission
deriving DecidableEq, Repr

/-- The `Fatal` outcomes of 00_scope.md R14, each with the diagnostic of 60_exceptions.md R536: the instruction's `pc` and
its first half-word. All are the spec's own terminal outcomes; stopping is safe (log 11, 18). -/
inductive Fault where
  /-- A bus request failed (20_memory.md R100, R103); raised by instruction fetch and by every load, store, IN, OUT and
  CAXI. `addr` is the effective address before masking (R102); `w0` is none when the fetch of `w0` itself failed. Safe. -/
  | busError (kind : BusErrorKind) (addr : Word) (pc : Word) (w0 : Option Half)
  /-- A division by zero (43_muldiv.md R291, R293, R295); raised by DIV and DIVU. Safe. -/
  | divideByZero (pc : Word) (w0 : Half)
  /-- A system register number outside the bank (10_state.md R61); raised by LDSR and STSR. Safe. -/
  | sysRegIndex (n : SysReg) (pc : Word) (w0 : Half)
deriving DecidableEq, Repr

/-- The `Refuse(what)` outcome of 00_scope.md R14: the spec gives the instruction no meaning. -/
inductive Refusal where
  /-- An arm of `exec` whose meaning is not written; raised by Dispatch.lean only. Safe. -/
  | notModelled (mnemonic : String)
  /-- A word of the bit-string group, with `pc` and `w0` (48_subopcode.md R400, R401); raised by BITSTRING. Safe. -/
  | bitString (pc : Word) (w0 : Half)
  /-- A recognized Format VII instruction, with its mnemonic, `pc` and both half-words (48_subopcode.md R400, R402 to R414);
  raised by CMPF.S to MPYHW. Safe. -/
  | formatVII (mnemonic : String) (pc : Word) (w0 w1 : Half)
deriving DecidableEq, Repr

/-- The width of a data access (20_memory.md R91). -/
inductive Width where
  | byte
  | half
  | word
deriving DecidableEq, Repr

/-- The direction of a bus request (70_reset_and_hazards.md R632). -/
inductive Direction where
  | read
  | write
deriving DecidableEq, Repr

/-- What a device region answers to a request: done, with the data of a read, or `Unimplemented` (20_memory.md R92). -/
inductive DeviceAnswer where
  | done (data : Word)
  | unimplemented
deriving DecidableEq, Repr

/-- A request on a region port (70_reset_and_hazards.md R633): the region sees the local offset, never an absolute
address; `data` is 0 for a read. -/
structure DeviceRequest where
  device : Device
  direction : Direction
  width : Width
  offset : Nat
  data : Word
deriving DecidableEq, Repr

/-- The request lines the environment may raise (60_exceptions.md R503). -/
inductive Line where
  | reset
  | nmi
  | int (n : BitVec 4)
deriving DecidableEq, Repr

/-- The bytes of the storage regions: address and value, in one canonical form (`Memory.wf`). -/
abbrev Memory := List Host.Cell

/-- The state of the block. -/
structure State where
  /-- The parameters of 00_scope.md R8, fixed before the first tick (log 1). -/
  config : Config
  /-- `x[0..31]` (10_state.md R30); `x[0]` reads 0 whatever slot 0 holds (R31). -/
  regs : Vector Word 32
  /-- The program counter (R35). -/
  pc : Word
  /-- The Program Status Word (R40, R41). -/
  psw : Word
  /-- System register 0 (R51). -/
  eipc : Word
  /-- System register 1 (R52). -/
  eipsw : Word
  /-- System register 2 (R53). -/
  fepc : Word
  /-- System register 3 (R55). -/
  fepsw : Word
  /-- System register 4 (R54). -/
  ecr : Word
  /-- System register 24 (R59). -/
  chcw : Word
  /-- System register 25 (R60). -/
  adtre : Word
  /-- The pending interrupt types (R65), without repeats, in the order of `IntType.rank` (log 14). -/
  pending : List IntType
  /-- The halt latch (R66). -/
  halted : Bool
  /-- The fatal latch (R67; log 11). -/
  fatal : Option Fault
  /-- The bytes of the storage regions (20_memory.md R111; log 5). -/
  mem : Memory
  /-- The lines offered with each coming tick, the next tick first; none after the last (60_exceptions.md R503; log 10). -/
  offers : List (List Line)
  /-- The answers of the device regions to the coming requests (93_implementation_defined.md U2; log 8). -/
  deviceAnswers : List DeviceAnswer
  /-- The requests sent to device regions, oldest first (70_reset_and_hazards.md R633; log 9). -/
  deviceRequests : List DeviceRequest
  /-- The counter `Config.deviceAnswer` is applied to (log 8). -/
  freeIndex : Nat
  /-- The cycle count the last tick returned (70_reset_and_hazards.md R620, R621; log 12). -/
  cycles : Nat
deriving DecidableEq, Repr

/-- `reset()` (70_reset_and_hazards.md R600): the reset port (R631), and what a Reset request does (60_exceptions.md R513).
The configuration, the regions and the environment's schedules are untouched (R601; log 24). -/
def State.resetFrom (s : State) : State :=
  { s with
    regs := (Vector.replicate 32 s.config.gprSentinel).set 0 0#32
    pc := 0xFFFFFFF0#32
    psw := s.config.pswReset
    eipc := s.config.sysregSentinel
    eipsw := s.config.sysregSentinel
    fepc := s.config.sysregSentinel
    fepsw := s.config.sysregSentinel
    ecr := s.config.ecrReset
    chcw := 0#32
    adtre := s.config.sysregSentinel
    pending := []
    halted := false
    fatal := none }

/-- The machine right after reset under the parameters `c` (10_state.md R70, R72), with nothing in any region and nothing
scheduled by the environment. -/
def State.resetWith (c : Config) : State :=
  State.resetFrom
    { config := c, regs := Vector.replicate 32 0#32, pc := 0#32, psw := 0#32, eipc := 0#32, eipsw := 0#32,
      fepc := 0#32, fepsw := 0#32, ecr := 0#32, chcw := 0#32, adtre := 0#32, pending := [], halted := false,
      fatal := none, mem := [], offers := [], deviceAnswers := [], deviceRequests := [], freeIndex := 0, cycles := 0 }

/-- The machine right after reset, with the default parameters. -/
def State.reset : State := State.resetWith defaultConfig

end Sys2Proof.Machine
end

