-- ==== Sys2Proof/Machine/Memory.lean ====
section
/-! DEFINITION. The bytes of the storage regions (spec/20_memory.md R111) as a list of cells in one canonical form, and
values of several bytes over them in little-endian order (R106). -/

namespace Sys2Proof.Machine

open Sys2Proof

/-- What a byte nothing has written reads as: DESIGN CHOICE 0, unsafe (log 5). -/
def Memory.unlisted : Byte := 0#8

/-- The byte at a cell address. -/
def Memory.read : Memory → Nat → Byte
  | [], _ => Memory.unlisted
  | (b, v) :: m, a => if a = b then v else Memory.read m a

/-- The list without the cell at `a`. -/
def Memory.erase : Memory → Nat → Memory
  | [], _ => []
  | (b, v) :: m, a => if a = b then Memory.erase m a else (b, v) :: Memory.erase m a

/-- The list with a cell put before the first one at a higher address. -/
def Memory.insert : Memory → Nat → Byte → Memory
  | [], a, v => [(a, v)]
  | (b, w) :: m, a, v => if a < b then (a, v) :: (b, w) :: m else (b, w) :: Memory.insert m a v

/-- The memory after one byte is stored; the canonical form is kept. -/
def Memory.write (m : Memory) (a : Nat) (v : Byte) : Memory :=
  if v = Memory.unlisted then Memory.erase m a else Memory.insert (Memory.erase m a) a v

/-- Every cell of the list lies above `a`, strictly rising, and none holds what an unlisted byte reads as. -/
def Memory.wfAbove : Option Nat → Memory → Bool
  | _, [] => true
  | low, (b, v) :: m => low.all (fun a => decide (a < b)) && decide (v ≠ Memory.unlisted) && Memory.wfAbove (some b) m

/-- The canonical form: addresses strictly rising, no entry equal to what an unlisted address reads as. -/
def Memory.wf (m : Memory) : Bool := Memory.wfAbove none m

/-- The cell of byte `k` of an access at local offset `off` in a storage region: `mem[(off + k) mod backing]`, kept at the
region's start (R111). -/
def cellAddress (start off backing k : Nat) : Nat := start + (off + k) % backing

/-- The first `n` bytes from `cell 0` on, bits `8k+7..8k` from `cell k` (R106). -/
def readBytes (m : Memory) (start off backing : Nat) : Nat → Word
  | 0 => 0#32
  | n + 1 =>
    readBytes m start off backing n |||
      ((Memory.read m (cellAddress start off backing n)).setWidth 32 <<< (8 * n))

/-- The memory after the low `n` bytes of `v` are stored, bits `8k+7..8k` into `cell k` (R106). -/
def writeBytes (m : Memory) (start off backing : Nat) (v : Word) : Nat → Memory
  | 0 => m
  | n + 1 =>
    Memory.write (writeBytes m start off backing v n) (cellAddress start off backing n) (v.extractLsb' (8 * n) 8)

end Sys2Proof.Machine
end

