-- ==== Sys2Proof/Machine/Bus.lean ====
section
/-! DEFINITION. The bus (spec/20_memory.md R90 to R111): masking, resolution, the capability check, delegation to a storage
region or to a device, and the observer's read (R120). -/

namespace Sys2Proof.Machine

open Sys2Proof

/-- The number of bytes of an access (R91). -/
def Width.bytes : Width → Nat
  | .byte => 1
  | .half => 2
  | .word => 4

/-- The masked address `m = addr & 0x07FFFFFF` (R98). -/
def maskAddress (addr : Word) : Nat := (addr &&& 0x07FFFFFF#32).toNat

/-- The region's range holds the masked address (R99). -/
def Region.holds (g : Region) (m : Nat) : Bool := decide (g.start ≤ m ∧ m < g.start + g.size)

/-- Resolution (R99): the table lists the regions high to low, so the first one found has the highest start (log 7). -/
def resolve (regions : List Region) (m : Nat) : Option Region := regions.find? (fun g => Region.holds g m)

/-- The capability check (R93, R100). -/
def permits : Capability → Direction → Bool
  | .readOnly, .read => true
  | .readOnly, .write => false
  | .writeOnly, .read => false
  | .writeOnly, .write => true
  | .readWrite, _ => true

/-- Where a request goes once the checks of R100 have passed: into the cells of a storage region, or to a device. -/
inductive Target where
  | storage (start off backing : Nat)
  | device (d : Device) (off : Nat)
deriving DecidableEq, Repr

/-- The checks of R100 in their order: mask, resolve (`Unmapped`), capability (`Permission`), then the region's own answer
`Unimplemented` to an access past its end (R108) or to every request (R94). -/
def busTarget (c : Config) (dir : Direction) (n : Width) (addr : Word) : Except BusErrorKind Target :=
  match resolve c.regions (maskAddress addr) with
  | none => .error .unmapped
  | some g =>
    if permits g.capability dir then
      if g.size < maskAddress addr - g.start + n.bytes then .error .unimplemented
      else
        match g.kind with
        | .storage backing => .ok (.storage g.start (maskAddress addr - g.start) backing)
        | .device d => .ok (.device d (maskAddress addr - g.start))
        | .unimplemented => .error .unimplemented
    else .error .permission

/-- The low `8n` bits of a value. -/
def lowBytes (n : Width) (v : Word) : Word :=
  match n with
  | .byte => zext (v.extractLsb' 0 8)
  | .half => zext (v.extractLsb' 0 16)
  | .word => v

/-- A request to a device region: the request is sent, and the next scheduled answer is the region's; where none is
scheduled the answer is free, both its data and whether it is `Unimplemented` (20_memory.md R122; 93_implementation_defined.md U2;
log 8, 9). -/
def deviceRequest (q : DeviceRequest) (s : State) : Except BusErrorKind (Word × State) :=
  match s.deviceAnswers with
  | [] =>
    match Config.deviceAnswer s.freeIndex with
    | some v => .ok (v, { s with freeIndex := s.freeIndex + 1, deviceRequests := s.deviceRequests ++ [q] })
    | none => .error .unimplemented
  | .done v :: rest => .ok (v, { s with deviceAnswers := rest, deviceRequests := s.deviceRequests ++ [q] })
  | .unimplemented :: _ => .error .unimplemented

/-- `MemRead(addr, n)` (00_scope.md R13, 20_memory.md R100): the value, zero-extended to a word, and the state after. -/
def busRead (n : Width) (addr : Word) (s : State) : Except BusErrorKind (Word × State) :=
  match busTarget s.config .read n addr with
  | .error k => .error k
  | .ok (.storage start off backing) => .ok (readBytes s.mem start off backing n.bytes, s)
  | .ok (.device d off) =>
    match deviceRequest { device := d, direction := .read, width := n, offset := off, data := 0#32 } s with
    | .error k => .error k
    | .ok (v, s') => .ok (lowBytes n v, s')

/-- `MemWrite(addr, n, v)` (00_scope.md R13, 20_memory.md R100). -/
def busWrite (n : Width) (addr v : Word) (s : State) : Except BusErrorKind State :=
  match busTarget s.config .write n addr with
  | .error k => .error k
  | .ok (.storage start off backing) => .ok { s with mem := writeBytes s.mem start off backing v n.bytes }
  | .ok (.device d off) =>
    match deviceRequest { device := d, direction := .write, width := n, offset := off, data := lowBytes n v } s with
    | .error k => .error k
    | .ok (_, s') => .ok s'

/-- An observer's out-of-band read (20_memory.md R120, 70_reset_and_hazards.md R634): the answer of R100, and no effect on
the engine (log 23). -/
def observeRead (n : Width) (addr : Word) (s : State) : Except BusErrorKind Word :=
  match busRead n addr s with
  | .error k => .error k
  | .ok (v, _) => .ok v

end Sys2Proof.Machine
end

