-- ==== Sys2Proof/Machine/Psw.lean ====
section
/-! DEFINITION. The fields of the Program Status Word and its write operations (spec/10_state.md R41 to R43). The bit
positions are general knowledge in the spec itself (R41; log 22). -/

namespace Sys2Proof.Machine

open Sys2Proof

/-! ### Reading a field (R41) -/

def pswZ (p : Word) : Bool := p.getLsbD 0
def pswS (p : Word) : Bool := p.getLsbD 1
def pswOV (p : Word) : Bool := p.getLsbD 2
def pswCY (p : Word) : Bool := p.getLsbD 3
def pswFUD (p : Word) : Bool := p.getLsbD 5
def pswFOV (p : Word) : Bool := p.getLsbD 6
def pswFZD (p : Word) : Bool := p.getLsbD 7
def pswFIV (p : Word) : Bool := p.getLsbD 8
def pswFRO (p : Word) : Bool := p.getLsbD 9
def pswID (p : Word) : Bool := p.getLsbD 12
def pswAE (p : Word) : Bool := p.getLsbD 13
def pswEP (p : Word) : Bool := p.getLsbD 14
def pswNP (p : Word) : Bool := p.getLsbD 15

/-- The interrupt mask level `PSW.I`, as a number (R41). -/
def pswI (c : Config) (p : Word) : Nat := (extractUnsigned p c.ilLsb c.ilWidth).toNat

/-! ### Writing a field (R43) -/

/-- `setZeroSignOverflow(z,s,o)`: CY and every other bit unchanged. -/
def setZeroSignOverflow (p : Word) (z s o : Bool) : Word := setBit (setBit (setBit p 0 z) 1 s) 2 o

/-- `setZeroSignOverflowCarry(z,s,o,c)`. -/
def setZeroSignOverflowCarry (p : Word) (z s o c : Bool) : Word := setBit (setZeroSignOverflow p z s o) 3 c

/-- `setInterruptDisable`. -/
def setInterruptDisable (p : Word) (b : Bool) : Word := setBit p 12 b

/-- `setAddressTrapEnable`; no instruction calls it alone (R41: AE is written by explicit writes only). -/
def setAddressTrapEnable (p : Word) (b : Bool) : Word := setBit p 13 b

/-- `setExceptionPending`. -/
def setExceptionPending (p : Word) (b : Bool) : Word := setBit p 14 b

/-- `setNMIPending`. -/
def setNMIPending (p : Word) (b : Bool) : Word := setBit p 15 b

/-- `setInterruptLevel(v)`: the low `IL_WIDTH` bits of the level go into the field (R43). -/
def setInterruptLevel (c : Config) (p : Word) (level : Nat) : Word :=
  insertField (BitVec.ofNat 32 level) c.ilLsb c.ilWidth p

/-- The five floating-point accumulators, "OR-only" (R43, R49): a flag that is 1 stays 1. Nothing this spec executes calls
it (48_subopcode.md R416). -/
def accumulateFloat (p : Word) (fud fov fzd fiv fro : Bool) : Word :=
  setBit (setBit (setBit (setBit (setBit p 5 (pswFUD p || fud)) 6 (pswFOV p || fov)) 7 (pswFZD p || fzd))
    8 (pswFIV p || fiv)) 9 (pswFRO p || fro)

/-- The raw `set(value)`: `PSW <- v & PSW_MASK` (R42). -/
def rawSetPsw (c : Config) (v : Word) : Word := v &&& pswMask c

end Sys2Proof.Machine
end

