-- ==== Sys2Proof/Machine/Flags.lean ====
section
/-! DEFINITION. The flag rules (spec/10_state.md R44 to R48) as functions from the old PSW to the new one, and the
condition evaluator (40_branch.md R200). -/

namespace Sys2Proof.Machine

open Sys2Proof

/-- `SetAddFlags(a, b)` (R44): the 33-bit sum, OV from the signs. -/
def setAddFlags (p a b : Word) : Word :=
  let t : BitVec 33 := a.setWidth 33 + b.setWidth 33
  let r : Word := t.setWidth 32
  setZeroSignOverflowCarry p (decide (r = 0#32)) (r.getLsbD 31) (((a ^^^ r) &&& (b ^^^ r)).getLsbD 31) (t.getLsbD 32)

/-- `SetSubFlags(a, b)` (R45): the 33-bit difference, CY the borrow. -/
def setSubFlags (p a b : Word) : Word :=
  let t : BitVec 33 := a.setWidth 33 - b.setWidth 33
  let r : Word := t.setWidth 32
  setZeroSignOverflowCarry p (decide (r = 0#32)) (r.getLsbD 31) (((a ^^^ b) &&& (a ^^^ r)).getLsbD 31) (t.getLsbD 32)

/-- `SetLogicFlags(r)` (R46): OV false, CY untouched. -/
def setLogicFlags (p r : Word) : Word := setZeroSignOverflow p (decide (r = 0#32)) (r.getLsbD 31) false

/-- `SetShiftFlags(r, n, c)` (R47): CY is the last bit shifted out, untouched when `n = 0`. -/
def setShiftFlags (p r : Word) (n : Nat) (c : Bool) : Word :=
  let q := setZeroSignOverflow p (decide (r = 0#32)) (r.getLsbD 31) false
  if n = 0 then q else setBit q 3 c

/-- The flags of multiply and divide (R48): Z and S from the word `lo` written to the destination, CY unchanged. -/
def setMulDivFlags (p lo : Word) (ov : Bool) : Word := setZeroSignOverflow p (decide (lo = 0#32)) (lo.getLsbD 31) ov

/-- `Cond(c)` (40_branch.md R200); it reads Z, S, OV and CY only. -/
def cond (c : BitVec 4) (p : Word) : Bool :=
  match c with
  | 0x0#4 => pswOV p
  | 0x1#4 => pswCY p
  | 0x2#4 => pswZ p
  | 0x3#4 => pswCY p || pswZ p
  | 0x4#4 => pswS p
  | 0x5#4 => true
  | 0x6#4 => pswS p ^^ pswOV p
  | 0x7#4 => (pswS p ^^ pswOV p) || pswZ p
  | 0x8#4 => !pswOV p
  | 0x9#4 => !pswCY p
  | 0xA#4 => !pswZ p
  | 0xB#4 => !(pswCY p || pswZ p)
  | 0xC#4 => !pswS p
  | 0xD#4 => false
  | 0xE#4 => !(pswS p ^^ pswOV p)
  | _ => !((pswS p ^^ pswOV p) || pswZ p)

end Sys2Proof.Machine
end

