-- ==== Sys2Proof/Machine/Operands.lean ====
section
/-! DEFINITION. The registers an instruction names (spec/10_state.md R31), the program counter's one write (R36), the
immediates and displacements (30_encoding.md R153), and the effective address (47_loadstore.md R370). -/

namespace Sys2Proof.Machine

open Sys2Proof

/-- `x[r]`: register 0 reads 0 (R31). -/
def State.reg (s : State) (r : Reg) : Word := if r = 0#5 then 0#32 else s.regs[r.toNat]'r.isLt

/-- `x[r] <- v`: a write to register 0 is discarded (R31). -/
def State.setReg (s : State) (r : Reg) (v : Word) : State :=
  if r = 0#5 then s else { s with regs := s.regs.set r.toNat v r.isLt }

/-- `pc <- v`: bit 0 of the value written is dropped (R36). -/
def State.setPc (s : State) (v : Word) : State := { s with pc := v &&& 0xFFFFFFFE#32 }

/-- The PSW takes the word `p`. -/
def State.setPsw (s : State) (p : Word) : State := { s with psw := p }

/-- The tick returns `n` cycles (00_scope.md R14). -/
def State.setCycles (s : State) (n : Nat) : State := { s with cycles := n }

/-- The end of an instruction that is not a control transfer (R37): `pc` moves past it and the tick returns `n`. -/
def State.retire (s : State) (length : Word) (n : Nat) : State := (s.setPc (s.pc + length)).setCycles n

/-- Sign-extended `imm5` (MOV, ADD, CMP). -/
def immSigned5 (imm5 : BitVec 5) : Word := sext imm5

/-- Unsigned `imm5` as a shift amount (SHL, SHR, SAR; 42_shift.md R276). -/
def shiftImm (imm5 : BitVec 5) : Nat := imm5.toNat

/-- The shift amount of the register forms: the low 5 bits of the register (42_shift.md R270). -/
def shiftReg (v : Word) : Nat := (v.extractLsb' 0 5).toNat

/-- `sext_16(imm16)` (MOVEA, ADDI) and `sext_16(disp16)`. -/
def immSigned16 (imm16 : Half) : Word := sext imm16

/-- `zext_16(imm16)` (ORI, ANDI, XORI). -/
def immUnsigned16 (imm16 : Half) : Word := zext imm16

/-- `imm16 ++ 0x0000` (MOVHI). -/
def immHigh16 (imm16 : Half) : Word := imm16 ++ 0x0000#16

/-- The target of a conditional branch: the branch's own address plus `sext_9(disp9)` (40_branch.md R217). -/
def branchTarget (pc : Word) (disp9 : BitVec 9) : Word := pc + sext disp9

/-- The target of JR and JAL: the instruction's own address plus `sext_26(disp26)` (46_longjump.md R360, R363). -/
def jumpTarget (pc : Word) (disp26 : BitVec 26) : Word := pc + sext disp26

/-- `ea = x[reg1] + sext_16(disp16)`, no low bit cleared (47_loadstore.md R370). -/
def effectiveAddress (s : State) (reg1 : Reg) (disp16 : Half) : Word := s.reg reg1 + immSigned16 disp16

end Sys2Proof.Machine
end

