-- ==== Sys2Proof/Machine/Ops.lean ====
section
/-! DEFINITION. The operations the meanings share: the system register bank (spec/10_state.md R50 to R61), interrupt
requests (60_exceptions.md R520), TAKING an interrupt or exception (R521) and the return from one (44_jump_system.md R314),
and the fatal outcomes (00_scope.md R14). -/

namespace Sys2Proof.Machine

open Sys2Proof

/-- How an instruction ends. -/
abbrev Result := Host.Outcome State Fault Refusal

/-! ### The system register bank -/

/-- What STSR reads (R50); none for a number outside the bank (R61). -/
def sysRead (s : State) (id : SysReg) : Option Word :=
  match id with
  | 0#5 => some s.eipc
  | 1#5 => some s.eipsw
  | 2#5 => some s.fepc
  | 3#5 => some s.fepsw
  | 4#5 => some s.ecr
  | 5#5 => some s.psw
  | 6#5 => some s.config.pirValue
  | 7#5 => some s.config.tkcwValue
  | 24#5 => some s.chcw
  | 25#5 => some s.adtre
  | _ => none

/-- What LDSR does (R50): ECR, PIR and TKCW discard the write; none for a number outside the bank (R61). -/
def sysWrite (s : State) (id : SysReg) (v : Word) : Option State :=
  match id with
  | 0#5 => some { s with eipc := v }
  | 1#5 => some { s with eipsw := v }
  | 2#5 => some { s with fepc := v }
  | 3#5 => some { s with fepsw := v }
  | 4#5 => some s
  | 5#5 => some (s.setPsw (rawSetPsw s.config v))
  | 6#5 => some s
  | 7#5 => some s
  | 24#5 => some { s with chcw := v &&& 0x00000002#32 }
  | 25#5 => some { s with adtre := v }
  | _ => none

/-! ### Interrupt requests -/

/-- The place of a type in the one order `pending` is kept in (log 14): the order of the default priorities. -/
def IntType.rank : IntType → Nat
  | .reset => 0
  | .nmi => 1
  | .illegalOpcode => 2
  | .trap v => 3 + v.toNat
  | .int n => 35 + (15 - n.toNat)

/-- `pending ∪ { t }`: at most one request per type (60_exceptions.md R511). -/
def addPending (t : IntType) : List IntType → List IntType
  | [] => [t]
  | u :: us =>
    if IntType.rank t < IntType.rank u then t :: u :: us
    else if t = u then u :: us
    else u :: addPending t us

/-- `pending \ { t }`. -/
def removePending (t : IntType) (pending : List IntType) : List IntType := pending.filter (fun u => decide (u ≠ t))

/-- `raise Request(T)` without the end of the tick (R520). -/
def State.request (s : State) (t : IntType) : State := { s with pending := addPending t s.pending }

/-- An unrecognized pattern: the IllegalOpcode request, nothing else changed, `pc` not advanced (R520; 30_encoding.md
R155). -/
def raiseIllegal (s : State) : Result := .next ((s.request .illegalOpcode).setCycles s.config.cycles.illegal)

/-- An instruction that exists only when `ADMIT_GK_INSTR` is true, and is IllegalOpcode otherwise (30_encoding.md R155). -/
def admitted (s : State) (meaning : Result) : Result := if s.config.admitGkInstr then meaning else raiseIllegal s

/-! ### Taking an interrupt or exception, and returning from one -/

/-- The acceptance test (60_exceptions.md R514); `level` at its full value. -/
def accepts (c : Config) (psw : Word) (d : Descriptor) : Bool :=
  !d.maskable || (!pswID psw && d.level.any (fun l => decide (pswI c psw ≤ l)))

/-- The PSW that entry leaves: EP for a maskable type, NP for another, ID set, I the type's level if it has one (R521). -/
def entryPsw (c : Config) (psw : Word) (d : Descriptor) : Word :=
  let p := if d.maskable then setExceptionPending psw true else setNMIPending psw true
  let p := setInterruptDisable p true
  match d.level with
  | some l => setInterruptLevel c p l
  | none => p

/-- `Enter(d)` (60_exceptions.md R521): the one operation that takes an interrupt or exception. -/
def enter (d : Descriptor) (s : State) : State :=
  let saved : State :=
    if d.maskable then
      { s with eipc := s.pc, eipsw := s.psw, ecr := insertField (zext d.exceptionCode) 0 16 s.ecr }
    else
      { s with fepc := s.pc, fepsw := s.psw, ecr := insertField (zext d.exceptionCode) 16 16 s.ecr }
  ({ saved with
      psw := entryPsw s.config s.psw d
      halted := false
      pending := removePending d.type s.pending }).setPc d.handler

/-- What RETI restores (44_jump_system.md R314): the FE pair if `PSW.NP = 1`, else the EI pair, both read before either
write. -/
def returnFromException (s : State) : State :=
  if pswNP s.psw then (s.setPsw (rawSetPsw s.config s.fepsw)).setPc s.fepc
  else (s.setPsw (rawSetPsw s.config s.eipsw)).setPc s.eipc

/-! ### Fatal outcomes, with the diagnostic of 60_exceptions.md R536 -/

/-- `Fatal(BusError(kind, addr))` of the data access of `i` (47_loadstore.md). -/
def fatalBus (i : Instr) (kind : BusErrorKind) (addr : Word) (s : State) : Result :=
  .fault (.busError kind addr s.pc (some (word0 i)))

/-- `Fatal(DivideByZero)` of `i` (43_muldiv.md R295). -/
def fatalDivide (i : Instr) (s : State) : Result := .fault (.divideByZero s.pc (word0 i))

/-- `Fatal(SysRegIndex(n))` of `i` (10_state.md R61). -/
def fatalSysReg (i : Instr) (n : SysReg) (s : State) : Result := .fault (.sysRegIndex n s.pc (word0 i))

end Sys2Proof.Machine
end

