-- ==== Sys2Proof/Machine/ArithLogic.lean ====
section
/-! DEFINITION. Move, add, subtract, compare, logical and set-flag instructions (spec/41_arith_logic.md R230 to R241). -/

namespace Sys2Proof.Machine

open Sys2Proof

/-- `x[reg2] <- v`, no flag, a 2-byte instruction of this family. -/
def aluMove (reg2 : Reg) (v : Word) (s : State) : Result :=
  .next ((s.setReg reg2 v).retire 2#32 s.config.cycles.alu)

/-- The add forms: `SetAddFlags(a, b)`, then `x[reg2] <- a + b`. -/
def aluAdd (reg2 : Reg) (a b : Word) (s : State) : Result :=
  .next (((s.setPsw (setAddFlags s.psw a b)).setReg reg2 (a + b)).retire 2#32 s.config.cycles.alu)

/-- The compare forms: `SetSubFlags(a, b)` and no register write. -/
def aluCompare (a b : Word) (s : State) : Result :=
  .next ((s.setPsw (setSubFlags s.psw a b)).retire 2#32 s.config.cycles.alu)

/-- The logical forms: `SetLogicFlags(r)`, then `x[reg2] <- r`. -/
def aluLogic (reg2 : Reg) (r : Word) (s : State) : Result :=
  .next (((s.setPsw (setLogicFlags s.psw r)).setReg reg2 r).retire 2#32 s.config.cycles.alu)

/-- MOV reg1, reg2 (R230). -/
def execMov (reg1 reg2 : Reg) (s : State) : Result := aluMove reg2 (s.reg reg1) s

/-- MOV imm5, reg2 (R231). -/
def execMovImm (imm5 : BitVec 5) (reg2 : Reg) (s : State) : Result := aluMove reg2 (immSigned5 imm5) s

/-- ADD reg1, reg2 (R232). -/
def execAdd (reg1 reg2 : Reg) (s : State) : Result := aluAdd reg2 (s.reg reg2) (s.reg reg1) s

/-- ADD imm5, reg2 (R233). -/
def execAddImm (imm5 : BitVec 5) (reg2 : Reg) (s : State) : Result := aluAdd reg2 (s.reg reg2) (immSigned5 imm5) s

/-- SUB reg1, reg2 (R234). -/
def execSub (reg1 reg2 : Reg) (s : State) : Result :=
  .next (((s.setPsw (setSubFlags s.psw (s.reg reg2) (s.reg reg1))).setReg reg2 (s.reg reg2 - s.reg reg1)).retire 2#32
    s.config.cycles.alu)

/-- CMP reg1, reg2 (R235). -/
def execCmp (reg1 reg2 : Reg) (s : State) : Result := aluCompare (s.reg reg2) (s.reg reg1) s

/-- CMP imm5, reg2 (R236). -/
def execCmpImm (imm5 : BitVec 5) (reg2 : Reg) (s : State) : Result := aluCompare (s.reg reg2) (immSigned5 imm5) s

/-- OR reg1, reg2 (R237). -/
def execOr (reg1 reg2 : Reg) (s : State) : Result := aluLogic reg2 (s.reg reg2 ||| s.reg reg1) s

/-- AND reg1, reg2 (R238). -/
def execAnd (reg1 reg2 : Reg) (s : State) : Result := aluLogic reg2 (s.reg reg2 &&& s.reg reg1) s

/-- XOR reg1, reg2 (R239). -/
def execXor (reg1 reg2 : Reg) (s : State) : Result := aluLogic reg2 (s.reg reg2 ^^^ s.reg reg1) s

/-- NOT reg1, reg2 (R240). -/
def execNot (reg1 reg2 : Reg) (s : State) : Result := aluLogic reg2 (~~~s.reg reg1) s

/-- SETF imm5, reg2 (R241), where admitted. -/
def execSetf (cond4 : BitVec 4) (reg2 : Reg) (s : State) : Result :=
  admitted s (aluMove reg2 (if cond cond4 s.psw then 1#32 else 0#32) s)

end Sys2Proof.Machine
end

