-- ==== Sys2Proof/Machine/Branch.lean ====
section
/-! DEFINITION. The sixteen conditional branches (spec/40_branch.md R201 to R217). -/

namespace Sys2Proof.Machine

open Sys2Proof

/-- Bcond (R217): taken when the condition holds, relative to the branch's own address. -/
def branchOn (c : BitVec 4) (disp9 : BitVec 9) (s : State) : Result :=
  if cond c s.psw then .next ((s.setPc (branchTarget s.pc disp9)).setCycles s.config.cycles.bcondTaken)
  else .next (s.retire 2#32 s.config.cycles.bcondNotTaken)

/-- BV (R201). -/
def execBv (disp9 : BitVec 9) (s : State) : Result := branchOn 0x0#4 disp9 s

/-- BC (R202). -/
def execBc (disp9 : BitVec 9) (s : State) : Result := branchOn 0x1#4 disp9 s

/-- BE (R203). -/
def execBe (disp9 : BitVec 9) (s : State) : Result := branchOn 0x2#4 disp9 s

/-- BNH (R204). -/
def execBnh (disp9 : BitVec 9) (s : State) : Result := branchOn 0x3#4 disp9 s

/-- BN (R205). -/
def execBn (disp9 : BitVec 9) (s : State) : Result := branchOn 0x4#4 disp9 s

/-- BR (R206). -/
def execBr (disp9 : BitVec 9) (s : State) : Result := branchOn 0x5#4 disp9 s

/-- BLT (R207). -/
def execBlt (disp9 : BitVec 9) (s : State) : Result := branchOn 0x6#4 disp9 s

/-- BLE (R208). -/
def execBle (disp9 : BitVec 9) (s : State) : Result := branchOn 0x7#4 disp9 s

/-- BNV (R209). -/
def execBnv (disp9 : BitVec 9) (s : State) : Result := branchOn 0x8#4 disp9 s

/-- BNC (R210). -/
def execBnc (disp9 : BitVec 9) (s : State) : Result := branchOn 0x9#4 disp9 s

/-- BNE (R211). -/
def execBne (disp9 : BitVec 9) (s : State) : Result := branchOn 0xA#4 disp9 s

/-- BH (R212). -/
def execBh (disp9 : BitVec 9) (s : State) : Result := branchOn 0xB#4 disp9 s

/-- BP (R213). -/
def execBp (disp9 : BitVec 9) (s : State) : Result := branchOn 0xC#4 disp9 s

/-- NOP (R214). -/
def execNop (disp9 : BitVec 9) (s : State) : Result := branchOn 0xD#4 disp9 s

/-- BGE (R215). -/
def execBge (disp9 : BitVec 9) (s : State) : Result := branchOn 0xE#4 disp9 s

/-- BGT (R216). -/
def execBgt (disp9 : BitVec 9) (s : State) : Result := branchOn 0xF#4 disp9 s

end Sys2Proof.Machine
end

