-- ==== Sys2Proof/Machine/Illegal.lean ====
section
/-! DEFINITION. The ILLEGAL rows of spec/opcode_table.json: an unrecognized pattern raises the IllegalOpcode request
(30_encoding.md R155, R156; 48_subopcode.md R415; 60_exceptions.md R520). -/

namespace Sys2Proof.Machine

/-- The ILLEGAL row of opcode `0x1B` (30_encoding.md R155). -/
def execIllegal1B (s : State) : Result := raiseIllegal s

/-- The ILLEGAL row of opcode `0x32` (R155). -/
def execIllegal32 (s : State) : Result := raiseIllegal s

/-- The ILLEGAL row of opcode `0x36` (R155). -/
def execIllegal36 (s : State) : Result := raiseIllegal s

/-- The ILLEGAL row of sub-opcode `0x01` (48_subopcode.md R415). -/
def execIllegal3E01 (s : State) : Result := raiseIllegal s

/-- The ILLEGAL row of sub-opcode `0x0D` (R415). -/
def execIllegal3E0D (s : State) : Result := raiseIllegal s

/-- The ILLEGAL row of sub-opcodes `0x0E` and `0x0F` (R415). -/
def execIllegal3E0E (s : State) : Result := raiseIllegal s

/-- The ILLEGAL row of sub-opcodes `0x10` to `0x1F` (R415). -/
def execIllegal3E10 (s : State) : Result := raiseIllegal s

/-- The ILLEGAL row of sub-opcodes `0x20` to `0x3F` (R415). -/
def execIllegal3E20 (s : State) : Result := raiseIllegal s

end Sys2Proof.Machine
end

