-- ==== Sys2Proof/Machine/Immediate.lean ====
section
/-! DEFINITION. The 16-bit-immediate instructions (spec/45_immediate16.md R340 to R345). -/

namespace Sys2Proof.Machine

open Sys2Proof

/-- `x[reg2] <- v`, no flag, a 4-byte instruction of this family. -/
def imm16Move (reg2 : Reg) (v : Word) (s : State) : Result :=
  .next ((s.setReg reg2 v).retire 4#32 s.config.cycles.imm16)

/-- The logical forms: `SetLogicFlags(r)`, then `x[reg2] <- r`. -/
def imm16Logic (reg2 : Reg) (r : Word) (s : State) : Result :=
  .next (((s.setPsw (setLogicFlags s.psw r)).setReg reg2 r).retire 4#32 s.config.cycles.imm16)

/-- MOVEA imm16, reg1, reg2 (R340): no flag. -/
def execMovea (imm16 : Half) (reg1 reg2 : Reg) (s : State) : Result :=
  imm16Move reg2 (s.reg reg1 + immSigned16 imm16) s

/-- ADDI imm16, reg1, reg2 (R341), where admitted. -/
def execAddi (imm16 : Half) (reg1 reg2 : Reg) (s : State) : Result :=
  admitted s (.next (((s.setPsw (setAddFlags s.psw (s.reg reg1) (immSigned16 imm16))).setReg reg2
    (s.reg reg1 + immSigned16 imm16)).retire 4#32 s.config.cycles.imm16))

/-- ORI imm16, reg1, reg2 (R342). -/
def execOri (imm16 : Half) (reg1 reg2 : Reg) (s : State) : Result :=
  imm16Logic reg2 (s.reg reg1 ||| immUnsigned16 imm16) s

/-- ANDI imm16, reg1, reg2 (R343). -/
def execAndi (imm16 : Half) (reg1 reg2 : Reg) (s : State) : Result :=
  imm16Logic reg2 (s.reg reg1 &&& immUnsigned16 imm16) s

/-- XORI imm16, reg1, reg2 (R344). -/
def execXori (imm16 : Half) (reg1 reg2 : Reg) (s : State) : Result :=
  imm16Logic reg2 (s.reg reg1 ^^^ immUnsigned16 imm16) s

/-- MOVHI imm16, reg1, reg2 (R345): no flag. -/
def execMovhi (imm16 : Half) (reg1 reg2 : Reg) (s : State) : Result :=
  imm16Move reg2 (s.reg reg1 + immHigh16 imm16) s

end Sys2Proof.Machine
end

