-- ==== Sys2Proof/Machine/JumpSystem.lean ====
section
/-! DEFINITION. Register jump and system instructions (spec/44_jump_system.md R310 to R318). There is one mode (R311): none of
them is refused for privilege. -/

namespace Sys2Proof.Machine

open Sys2Proof

/-- JMP [reg1] (R310). -/
def execJmp (reg1 : Reg) (s : State) : Result := .next ((s.setPc (s.reg reg1)).setCycles s.config.cycles.jmp)

/-- CLI (R312). -/
def execCli (s : State) : Result :=
  .next ((s.setPsw (setInterruptDisable s.psw false)).retire 2#32 s.config.cycles.cliSei)

/-- SEI (R313). -/
def execSei (s : State) : Result :=
  .next ((s.setPsw (setInterruptDisable s.psw true)).retire 2#32 s.config.cycles.cliSei)

/-- RETI (R314). -/
def execReti (s : State) : Result := .next ((returnFromException s).setCycles s.config.cycles.reti)

/-- TRAP vector (R315), where admitted: the request is entered by the next tick. -/
def execTrap (vector : BitVec 5) (s : State) : Result :=
  admitted s (.next ((s.request (.trap vector)).retire 2#32 s.config.cycles.trap))

/-- HALT (R316), where admitted. -/
def execHalt (s : State) : Result :=
  admitted s (.next ({ s with halted := true }.retire 2#32 s.config.cycles.halt))

/-- LDSR reg2, regID (R317). -/
def execLdsr (reg2 : Reg) (regID : SysReg) (s : State) : Result :=
  match sysWrite s regID (s.reg reg2) with
  | some s' => .next (s'.retire 2#32 s.config.cycles.sysReg)
  | none => fatalSysReg (.ldsr reg2 regID) regID s

/-- STSR regID, reg2 (R318). -/
def execStsr (regID : SysReg) (reg2 : Reg) (s : State) : Result :=
  match sysRead s regID with
  | some v => .next ((s.setReg reg2 v).retire 2#32 s.config.cycles.sysReg)
  | none => fatalSysReg (.stsr regID reg2) regID s

end Sys2Proof.Machine
end

