-- ==== Sys2Proof/Machine/LoadStore.lean ====
section
/-! DEFINITION. Load, store, IN, OUT and CAXI (spec/47_loadstore.md R370 to R389). -/

namespace Sys2Proof.Machine

open Sys2Proof

/-- One data read, then the write of `x[reg2]`, then `pc` (R386). `i` names the instruction in the diagnostic. -/
def loadFrom (i : Instr) (n : Width) (extend : Word → Word) (disp16 : Half) (reg1 reg2 : Reg) (s : State) : Result :=
  match busRead n (effectiveAddress s reg1 disp16) s with
  | .error k => fatalBus i k (effectiveAddress s reg1 disp16) s
  | .ok (v, s') => .next ((s'.setReg reg2 (extend v)).retire 4#32 s.config.cycles.load)

/-- One data write of `x[reg2]`, then `pc` (R386). -/
def storeTo (i : Instr) (n : Width) (reg2 : Reg) (disp16 : Half) (reg1 : Reg) (s : State) : Result :=
  match busWrite n (effectiveAddress s reg1 disp16) (s.reg reg2) s with
  | .error k => fatalBus i k (effectiveAddress s reg1 disp16) s
  | .ok s' => .next (s'.retire 4#32 s.config.cycles.store)

/-- `sext_8` of the byte read (LD.B). -/
def signedByte (v : Word) : Word := sext (v.extractLsb' 0 8)

/-- `sext_16` of the half-word read (LD.H). -/
def signedHalf (v : Word) : Word := sext (v.extractLsb' 0 16)

/-- The value read, zero-extended as the bus gives it (LD.W and every IN). -/
def unsignedValue (v : Word) : Word := v

/-- LD.B disp16[reg1], reg2 (R371). -/
def execLdB (disp16 : Half) (reg1 reg2 : Reg) (s : State) : Result :=
  loadFrom (.ldB disp16 reg1 reg2) .byte signedByte disp16 reg1 reg2 s

/-- LD.H disp16[reg1], reg2 (R372). -/
def execLdH (disp16 : Half) (reg1 reg2 : Reg) (s : State) : Result :=
  loadFrom (.ldH disp16 reg1 reg2) .half signedHalf disp16 reg1 reg2 s

/-- LD.W disp16[reg1], reg2 (R373). -/
def execLdW (disp16 : Half) (reg1 reg2 : Reg) (s : State) : Result :=
  loadFrom (.ldW disp16 reg1 reg2) .word unsignedValue disp16 reg1 reg2 s

/-- ST.B reg2, disp16[reg1] (R374). -/
def execStB (reg2 : Reg) (disp16 : Half) (reg1 : Reg) (s : State) : Result :=
  storeTo (.stB reg2 disp16 reg1) .byte reg2 disp16 reg1 s

/-- ST.H reg2, disp16[reg1] (R375). -/
def execStH (reg2 : Reg) (disp16 : Half) (reg1 : Reg) (s : State) : Result :=
  storeTo (.stH reg2 disp16 reg1) .half reg2 disp16 reg1 s

/-- ST.W reg2, disp16[reg1] (R376). -/
def execStW (reg2 : Reg) (disp16 : Half) (reg1 : Reg) (s : State) : Result :=
  storeTo (.stW reg2 disp16 reg1) .word reg2 disp16 reg1 s

/-- IN.B disp16[reg1], reg2 (R377). -/
def execInB (disp16 : Half) (reg1 reg2 : Reg) (s : State) : Result :=
  loadFrom (.inB disp16 reg1 reg2) .byte unsignedValue disp16 reg1 reg2 s

/-- IN.H disp16[reg1], reg2 (R378). -/
def execInH (disp16 : Half) (reg1 reg2 : Reg) (s : State) : Result :=
  loadFrom (.inH disp16 reg1 reg2) .half unsignedValue disp16 reg1 reg2 s

/-- IN.W disp16[reg1], reg2 (R379). -/
def execInW (disp16 : Half) (reg1 reg2 : Reg) (s : State) : Result :=
  loadFrom (.inW disp16 reg1 reg2) .word unsignedValue disp16 reg1 reg2 s

/-- OUT.B reg2, disp16[reg1] (R383). -/
def execOutB (reg2 : Reg) (disp16 : Half) (reg1 : Reg) (s : State) : Result :=
  storeTo (.outB reg2 disp16 reg1) .byte reg2 disp16 reg1 s

/-- OUT.H reg2, disp16[reg1] (R384). -/
def execOutH (reg2 : Reg) (disp16 : Half) (reg1 : Reg) (s : State) : Result :=
  storeTo (.outH reg2 disp16 reg1) .half reg2 disp16 reg1 s

/-- OUT.W reg2, disp16[reg1] (R385). -/
def execOutW (reg2 : Reg) (disp16 : Half) (reg1 : Reg) (s : State) : Result :=
  storeTo (.outW reg2 disp16 reg1) .word reg2 disp16 reg1 s

/-- The register that holds CAXI's exchange value (R382; log 21). -/
def exchangeReg : Reg := 30#5

/-- CAXI disp16[reg1], reg2 (R382), where admitted: one read, one write in both cases, then `x[reg2]`. -/
def execCaxi (disp16 : Half) (reg1 reg2 : Reg) (s : State) : Result :=
  admitted s
    (match busRead .word (effectiveAddress s reg1 disp16) s with
    | .error k => fatalBus (.caxi disp16 reg1 reg2) k (effectiveAddress s reg1 disp16) s
    | .ok (t, s1) =>
      match busWrite .word (effectiveAddress s reg1 disp16)
          (if pswZ (setSubFlags s.psw (s.reg reg2) t) then s.reg exchangeReg else t) s1 with
      | .error k => fatalBus (.caxi disp16 reg1 reg2) k (effectiveAddress s reg1 disp16) s
      | .ok s2 =>
        .next (((s2.setPsw (setSubFlags s.psw (s.reg reg2) t)).setReg reg2 t).retire 4#32 s.config.cycles.caxi))

end Sys2Proof.Machine
end

