-- ==== Sys2Proof/Machine/LongJump.lean ====
section
/-! DEFINITION. Long jump and call (spec/46_longjump.md R360 to R363). -/

namespace Sys2Proof.Machine

open Sys2Proof

/-- JR disp26 (R360). -/
def execJr (disp26 : BitVec 26) (s : State) : Result :=
  .next ((s.setPc (jumpTarget s.pc disp26)).setCycles s.config.cycles.jrJal)

/-- JAL disp26 (R361): the link value and the target are both computed from the old `pc`. -/
def execJal (disp26 : BitVec 26) (s : State) : Result :=
  .next (((s.setReg s.config.linkReg (s.pc + 4#32)).setPc (jumpTarget s.pc disp26)).setCycles s.config.cycles.jrJal)

end Sys2Proof.Machine
end

