-- ==== Sys2Proof/Machine/MulDiv.lean ====
section
/-! DEFINITION. Multiply and divide (spec/43_muldiv.md R290 to R297). -/

namespace Sys2Proof.Machine

open Sys2Proof

/-- The common end: Z, S, OV; then `x[HI_REG] <- hi`; then `x[reg2] <- lo` (R290; the second write wins when `reg2` is
`HI_REG`). -/
def writeHiLo (reg2 : Reg) (hi lo : Word) (ov : Bool) (n : Nat) (s : State) : Result :=
  .next ((((s.setPsw (setMulDivFlags s.psw lo ov)).setReg s.config.hiReg hi).setReg reg2 lo).retire 2#32 n)

/-- MUL reg1, reg2 (R290): the exact signed product. -/
def execMul (reg1 reg2 : Reg) (s : State) : Result :=
  let p : Int := (s.reg reg2).toInt * (s.reg reg1).toInt
  let w : BitVec 64 := BitVec.ofInt 64 p
  let lo : Word := w.extractLsb' 0 32
  writeHiLo reg2 (w.extractLsb' 32 32) lo (decide (p ≠ lo.toInt)) s.config.cycles.mul s

/-- MULU reg1, reg2 (R292): the exact unsigned product. -/
def execMulu (reg1 reg2 : Reg) (s : State) : Result :=
  let w : BitVec 64 := BitVec.ofNat 64 ((s.reg reg2).toNat * (s.reg reg1).toNat)
  let hi : Word := w.extractLsb' 32 32
  writeHiLo reg2 hi (w.extractLsb' 0 32) (decide (hi ≠ 0#32)) s.config.cycles.mul s

/-- DIV reg1, reg2 (R291): rounded toward zero, the remainder with the dividend's sign, and the one overflow case. -/
def execDiv (reg1 reg2 : Reg) (s : State) : Result :=
  let a := s.reg reg2
  let b := s.reg reg1
  if b = 0#32 then fatalDivide (.div reg1 reg2) s
  else if a = 0x80000000#32 ∧ b = 0xFFFFFFFF#32 then
    writeHiLo reg2 0#32 0x80000000#32 true s.config.cycles.div s
  else
    writeHiLo reg2 (BitVec.ofInt 32 (a.toInt.tmod b.toInt)) (BitVec.ofInt 32 (a.toInt.tdiv b.toInt)) false
      s.config.cycles.div s

/-- DIVU reg1, reg2 (R293). -/
def execDivu (reg1 reg2 : Reg) (s : State) : Result :=
  let a := s.reg reg2
  let b := s.reg reg1
  if b = 0#32 then fatalDivide (.divu reg1 reg2) s
  else
    writeHiLo reg2 (BitVec.ofNat 32 (a.toNat % b.toNat)) (BitVec.ofNat 32 (a.toNat / b.toNat)) false
      s.config.cycles.divu s

end Sys2Proof.Machine
end

