-- ==== Sys2Proof/Machine/Shift.lean ====
section
/-! DEFINITION. The shift instructions (spec/42_shift.md R270 to R277). -/

namespace Sys2Proof.Machine

open Sys2Proof

/-- `SetShiftFlags(r, n, c)`, then `x[reg2] <- r`. -/
def shiftInto (reg2 : Reg) (r : Word) (n : Nat) (c : Bool) (s : State) : Result :=
  .next (((s.setPsw (setShiftFlags s.psw r n c)).setReg reg2 r).retire 2#32 s.config.cycles.shift)

/-- Shift left: the last bit out is bit `32 - n` (R270). -/
def shiftLeft (reg2 : Reg) (n : Nat) (s : State) : Result :=
  shiftInto reg2 (s.reg reg2 <<< n) n ((s.reg reg2).getLsbD (32 - n)) s

/-- Shift right, zeros entering: the last bit out is bit `n - 1` (R271). -/
def shiftRightLogical (reg2 : Reg) (n : Nat) (s : State) : Result :=
  shiftInto reg2 (s.reg reg2 >>> n) n ((s.reg reg2).getLsbD (n - 1)) s

/-- Shift right, copies of bit 31 entering (R272). -/
def shiftRightArith (reg2 : Reg) (n : Nat) (s : State) : Result :=
  shiftInto reg2 ((s.reg reg2).sshiftRight n) n ((s.reg reg2).getLsbD (n - 1)) s

/-- SHL reg1, reg2 (R270). -/
def execShl (reg1 reg2 : Reg) (s : State) : Result := shiftLeft reg2 (shiftReg (s.reg reg1)) s

/-- SHR reg1, reg2 (R271). -/
def execShr (reg1 reg2 : Reg) (s : State) : Result := shiftRightLogical reg2 (shiftReg (s.reg reg1)) s

/-- SAR reg1, reg2 (R272). -/
def execSar (reg1 reg2 : Reg) (s : State) : Result := shiftRightArith reg2 (shiftReg (s.reg reg1)) s

/-- SHL imm5, reg2 (R273). -/
def execShlImm (imm5 : BitVec 5) (reg2 : Reg) (s : State) : Result := shiftLeft reg2 (shiftImm imm5) s

/-- SHR imm5, reg2 (R274). -/
def execShrImm (imm5 : BitVec 5) (reg2 : Reg) (s : State) : Result := shiftRightLogical reg2 (shiftImm imm5) s

/-- SAR imm5, reg2 (R275). -/
def execSarImm (imm5 : BitVec 5) (reg2 : Reg) (s : State) : Result := shiftRightArith reg2 (shiftImm imm5) s

end Sys2Proof.Machine
end

