-- ==== Sys2Proof/Machine/SubOpcode.lean ====
section
/-! DEFINITION. The sub-opcoded instructions (spec/48_subopcode.md R400 to R414). The spec gives them no meaning and ends
their tick with `Refuse` (R400; log 16). -/

namespace Sys2Proof.Machine

open Sys2Proof

/-- `Refuse(<mnemonic>, pc, w0, w1)` of a recognized Format VII instruction (R402). -/
def refuseFormatVII (mnemonic : String) (i : Instr) (s : State) : Result :=
  .refused (.formatVII mnemonic s.pc (word0 i) ((word1 i).getD 0#16))

/-- BITSTRING (R401): `Refuse(BITSTRING, pc, w0)`. -/
def execBitstring (unused : BitVec 10) (s : State) : Result := .refused (.bitString s.pc (word0 (.bitstring unused)))

/-- CMPF.S (R403): refused by the spec. -/
def execCmpfS (reg1 reg2 : Reg) (unused : BitVec 10) (s : State) : Result :=
  refuseFormatVII "CMPF.S" (.cmpfS reg1 reg2 unused) s

/-- CVT.WS (R404): refused by the spec. -/
def execCvtWS (reg1 reg2 : Reg) (unused : BitVec 10) (s : State) : Result :=
  refuseFormatVII "CVT.WS" (.cvtWS reg1 reg2 unused) s

/-- CVT.SW (R405): refused by the spec. -/
def execCvtSW (reg1 reg2 : Reg) (unused : BitVec 10) (s : State) : Result :=
  refuseFormatVII "CVT.SW" (.cvtSW reg1 reg2 unused) s

/-- ADDF.S (R406): refused by the spec. -/
def execAddfS (reg1 reg2 : Reg) (unused : BitVec 10) (s : State) : Result :=
  refuseFormatVII "ADDF.S" (.addfS reg1 reg2 unused) s

/-- SUBF.S (R407): refused by the spec. -/
def execSubfS (reg1 reg2 : Reg) (unused : BitVec 10) (s : State) : Result :=
  refuseFormatVII "SUBF.S" (.subfS reg1 reg2 unused) s

/-- MULF.S (R408): refused by the spec. -/
def execMulfS (reg1 reg2 : Reg) (unused : BitVec 10) (s : State) : Result :=
  refuseFormatVII "MULF.S" (.mulfS reg1 reg2 unused) s

/-- DIVF.S (R409): refused by the spec. -/
def execDivfS (reg1 reg2 : Reg) (unused : BitVec 10) (s : State) : Result :=
  refuseFormatVII "DIVF.S" (.divfS reg1 reg2 unused) s

/-- XB (R410): refused by the spec. -/
def execXb (reg1 reg2 : Reg) (unused : BitVec 10) (s : State) : Result :=
  refuseFormatVII "XB" (.xb reg1 reg2 unused) s

/-- XH (R411): refused by the spec. -/
def execXh (reg1 reg2 : Reg) (unused : BitVec 10) (s : State) : Result :=
  refuseFormatVII "XH" (.xh reg1 reg2 unused) s

/-- REV (R412): refused by the spec. -/
def execRev (reg1 reg2 : Reg) (unused : BitVec 10) (s : State) : Result :=
  refuseFormatVII "REV" (.rev reg1 reg2 unused) s

/-- TRNC.SW (R413): refused by the spec. -/
def execTrncSW (reg1 reg2 : Reg) (unused : BitVec 10) (s : State) : Result :=
  refuseFormatVII "TRNC.SW" (.trncSW reg1 reg2 unused) s

/-- MPYHW (R414): refused by the spec. -/
def execMpyhw (reg1 reg2 : Reg) (unused : BitVec 10) (s : State) : Result :=
  refuseFormatVII "MPYHW" (.mpyhw reg1 reg2 unused) s

end Sys2Proof.Machine
end

