-- ==== Sys2Proof/Machine/Fetch.lean ====
section
/-! DEFINITION. Instruction fetch (spec/30_encoding.md R141, 60_exceptions.md R510 step 2b) and the placing of an
instruction where it is fetched. -/

namespace Sys2Proof.Machine

open Sys2Proof

/-- The second half-word is fetched: the instruction is 4 bytes long and its primary opcode is legal, which ADDI and CAXI
are only when admitted (R141, R155). -/
def fetchesSecond (c : Config) (w0 : Half) : Bool :=
  decide (instrLength w0 = 4) && (c.admitGkInstr || decide (opcodeOf w0 ≠ 0x29#6 ∧ opcodeOf w0 ≠ 0x3A#6))

/-- Fetch and decode at `pc`. The state changes only where a device region answers the fetch. -/
def fetch (s : State) : Except Fault (Instr × State) :=
  match busRead .half s.pc s with
  | .error k => .error (.busError k s.pc s.pc none)
  | .ok (v0, s1) =>
    let w0 : Half := v0.setWidth 16
    if fetchesSecond s.config w0 then
      match busRead .half (s.pc + 2#32) s1 with
      | .error k => .error (.busError k (s.pc + 2#32) s.pc (some w0))
      | .ok (v1, s2) => .ok (decode w0 (v1.setWidth 16), s2)
    else .ok (decode w0 0#16, s1)

/-- The byte `v` put where the byte at `addr` is kept; nothing changes where `addr` is in no storage region. The bus is not
asked: this is how a loader outside the block fills a read-only region (20_memory.md R111, log 19). -/
def placeByte (c : Config) (addr : Word) (v : Byte) (m : Memory) : Memory :=
  match resolve c.regions (maskAddress addr) with
  | none => m
  | some g =>
    match g.kind with
    | .storage backing => Memory.write m (cellAddress g.start (maskAddress addr - g.start) backing 0) v
    | _ => m

/-- Bytes put at `addr`, `addr + 1`, … -/
def placeBytes (c : Config) : Word → List Byte → Memory → Memory
  | _, [], m => m
  | addr, v :: rest, m => placeBytes c (addr + 1#32) rest (placeByte c addr v m)

end Sys2Proof.Machine
end

