-- ==== Sys2Proof/Machine/Interrupts.lean ====
section
/-! DEFINITION. Step 1 of the tick (spec/60_exceptions.md R510 to R515): merging the offered requests, choosing one, and
entering it if it is accepted. -/

namespace Sys2Proof.Machine

open Sys2Proof

/-- The interrupt type a request line stands for (R503). -/
def Line.type : Line → IntType
  | .reset => .reset
  | .nmi => .nmi
  | .int n => .int n

/-- Step 1a: `pending ∪ offered` (R511). -/
def mergeOffered (offered : List Line) (s : State) : State :=
  { s with pending := offered.foldl (fun p l => addPending (Line.type l) p) s.pending }

/-- The pending type of least priority value (R512); of two with the same value the first in the list (log 14). -/
def choose (c : Config) : List IntType → Option IntType
  | [] => none
  | t :: rest =>
    match choose c rest with
    | none => some t
    | some u => if (descriptorOf c u).priority < (descriptorOf c t).priority then some u else some t

/-- The retention steps of R510: under `drop` every request left is lost (R515). -/
def applyRetention (s : State) : State :=
  match s.config.retention with
  | .retain => s
  | .drop => { s with pending := [] }

/-- How step 1 ends: the tick is over, or it goes on to step 2. -/
inductive Service where
  | finished (s : State)
  | proceed (s : State)
deriving DecidableEq, Repr

/-- Steps 1b and 1c (R510): Reset resets (R513), an accepted request is entered, and any other is left to the retention
rule. -/
def service (s : State) : Service :=
  match choose s.config s.pending with
  | none => .proceed (applyRetention s)
  | some t =>
    if t = .reset then .finished (s.resetFrom.setCycles s.config.cycles.entry)
    else if accepts s.config s.psw (descriptorOf s.config t) then
      .finished ((applyRetention (enter (descriptorOf s.config t) s)).setCycles s.config.cycles.entry)
    else .proceed (applyRetention s)

end Sys2Proof.Machine
end

