-- ==== Sys2Proof/Machine/Step.lean ====
section
/-! DEFINITION. The tick (spec/60_exceptions.md R510), the step that takes the environment's next offer from the state
(log 10), the state a step leaves whatever its outcome (10_state.md R67; log 11), and where an instruction is placed to be
fetched next (log 19). -/

namespace Sys2Proof.Machine

open Sys2Proof

/-- Step 2 of the tick: idle while halted, else fetch, decode and execute one instruction (R510). -/
def runInstruction (s : State) : Host.Outcome State Fault Refusal :=
  if s.halted then .next (s.setCycles s.config.cycles.haltIdle)
  else
    match fetch s with
    | .error f => .fault f
    | .ok (i, s') => exec i s'

/-- `tick(offered)` (R510): one activation of the step port (70_reset_and_hazards.md R630). -/
def tick (offered : List Line) (s : State) : Host.Outcome State Fault Refusal :=
  match s.fatal with
  | some f => .fault f
  | none =>
    match service (mergeOffered offered s) with
    | .finished s' => .next s'
    | .proceed s' => runInstruction s'

/-- One step: the tick with the lines scheduled for it; nothing is offered once the schedule has run out (log 10). -/
def step (s : State) : Host.Outcome State Fault Refusal :=
  match s.offers with
  | [] => tick [] s
  | offered :: rest => tick offered { s with offers := rest }

/-- The state after a step whatever its outcome: a `Fatal` outcome sets the fatal latch, and nothing else of it is
observable (10_state.md R67, 00_scope.md R14); the free answers of the device requests the tick may have made, at most four, are
not given again (log 8); a refusal leaves the state as it was (48_subopcode.md R400). -/
def stateAfter (s : State) : State :=
  match step s with
  | .next s' => s'
  | .fault f => { s with fatal := some f, freeIndex := s.freeIndex + 4 }
  | .refused _ => s

/-- `s` with the instruction `w` of `nbits` bits stored where the next step fetches it, as a loader outside the block would,
and with everything that would keep that step from fetching taken away: the latches, the pending requests and the lines
offered with it (log 19). -/
def State.withFetchWord (s : State) (nbits w : Nat) : State :=
  { s with
    mem := placeBytes s.config s.pc (tableBytes nbits w) s.mem
    pending := []
    halted := false
    fatal := none
    offers := match s.offers with
      | [] => []
      | _ :: rest => [] :: rest }

end Sys2Proof.Machine
end

