-- ==== Sys2Proof/Safety.lean ====
section
/-! DEFINITION. What counts as a safe run, the invariant of the machine, and the words the statements use: the frames
(what an instruction leaves as it was) and the spec's own spelling of encodings and of code in memory. -/

namespace Sys2Proof.Machine

open Sys2Proof

/-! ### Safe runs -/

/-- The step ends in a next state: neither `Fatal` nor `Refuse` (spec/00_scope.md R14). -/
def State.stepsSafely (s : State) : Prop := ∃ t, step s = .next t

/-- The first `n` steps all end in a next state. -/
def State.runsSafely : Nat → State → Prop
  | 0, _ => True
  | n + 1, s => ∃ t, step s = .next t ∧ State.runsSafely n t

/-! ### The invariant -/

/-- `pending` is a set kept in its one order (10_state.md R65; log 14). -/
def pendingWf (pending : List IntType) : Prop := pending.Pairwise (fun t u => IntType.rank t < IntType.rank u)

/-- What every step keeps. -/
structure State.Inv (s : State) : Prop where
  /-- The parameters meet 00_scope.md R9. -/
  config : configWf s.config = true
  /-- The slot behind `x[0]` holds 0 (10_state.md R31). -/
  regZero : s.regs[0] = 0#32
  /-- Bit 0 of `pc` is 0 (R36). -/
  pcEven : s.pc.getLsbD 0 = false
  /-- No undefined PSW bit is set (R42). -/
  psw : s.psw &&& ~~~pswMask s.config = 0#32
  /-- CHCW holds its one bit only (R59). -/
  chcw : s.chcw &&& ~~~0x00000002#32 = 0#32
  /-- The pending requests are a set (R65). -/
  pending : pendingWf s.pending
  /-- A Trap request is pending only where TRAP exists (60_exceptions.md R522). -/
  trapAdmitted : ∀ v, IntType.trap v ∈ s.pending → s.config.admitGkInstr = true
  /-- The halt latch is set only where HALT exists (10_state.md R66). -/
  haltAdmitted : s.halted = true → s.config.admitGkInstr = true
  /-- The memory is in its canonical form. -/
  memory : Memory.wf s.mem = true

/-! ### Frames -/

/-- Every general register but those listed reads as before. -/
def regsKept (changed : List Reg) (s t : State) : Prop := ∀ r, r ∉ changed → t.reg r = s.reg r

/-- Every PSW bit but those listed is as before. -/
def pswKept (changed : List Nat) (s t : State) : Prop := ∀ i, i ∉ changed → t.psw.getLsbD i = s.psw.getLsbD i

/-- The saved pairs, ECR, CHCW and ADTRE are as before. -/
def systemKept (s t : State) : Prop :=
  t.eipc = s.eipc ∧ t.eipsw = s.eipsw ∧ t.fepc = s.fepc ∧ t.fepsw = s.fepsw ∧ t.ecr = s.ecr ∧ t.chcw = s.chcw ∧
    t.adtre = s.adtre

/-- The parameters, the pending requests, the latches and the offers are as before. -/
def controlKept (s t : State) : Prop :=
  t.config = s.config ∧ t.pending = s.pending ∧ t.halted = s.halted ∧ t.fatal = s.fatal ∧ t.offers = s.offers

/-- No device region was asked. -/
def devicesKept (s t : State) : Prop :=
  t.deviceAnswers = s.deviceAnswers ∧ t.deviceRequests = s.deviceRequests ∧ t.freeIndex = s.freeIndex

/-- Every byte of memory outside the listed cells reads as before. -/
def bytesKept (changed : List Nat) (s t : State) : Prop :=
  ∀ a, a ∉ changed → Memory.read t.mem a = Memory.read s.mem a

/-- Everything but `pc`, the cycle count, the listed registers, PSW bits and memory cells is as before. -/
def frame (regs : List Reg) (flags : List Nat) (cells : List Nat) (s t : State) : Prop :=
  regsKept regs s t ∧ pswKept flags s t ∧ systemKept s t ∧ controlKept s t ∧ devicesKept s t ∧ bytesKept cells s t

/-- The destination `r` holds `v`, or 0 where it is register 0 (10_state.md R31). -/
def wrote (r : Reg) (v : Word) (t : State) : Prop := t.reg r = if r = 0#5 then 0#32 else v

/-- The tick moved past an instruction of `length` bytes, bit 0 dropped (R36, R37), and returned `n` cycles. -/
def retired (length : Word) (n : Nat) (s t : State) : Prop :=
  t.pc = (s.pc + length) &&& 0xFFFFFFFE#32 ∧ t.cycles = n

/-- The four integer flags Z, S, OV, CY, by their bits (10_state.md R41). -/
def flagBits : List Nat := [0, 1, 2, 3]

/-- `t` is `s` with the request `d` entered: what the entry saves, where it goes, and what it leaves as it was (60_exceptions.md R521).
The pending requests and the cycle count are the tick's to settle. -/
structure Entered (d : Descriptor) (s t : State) : Prop where
  /-- A maskable type saves into the EI pair and the low half of ECR. -/
  maskable : d.maskable = true →
    t.eipc = s.pc ∧ t.eipsw = s.psw ∧ t.fepc = s.fepc ∧ t.fepsw = s.fepsw ∧
      t.ecr.extractLsb' 0 16 = d.exceptionCode ∧ t.ecr.extractLsb' 16 16 = s.ecr.extractLsb' 16 16
  /-- Another type saves into the FE pair and the high half of ECR. -/
  nonMaskable : d.maskable = false →
    t.fepc = s.pc ∧ t.fepsw = s.psw ∧ t.eipc = s.eipc ∧ t.eipsw = s.eipsw ∧
      t.ecr.extractLsb' 16 16 = d.exceptionCode ∧ t.ecr.extractLsb' 0 16 = s.ecr.extractLsb' 0 16
  /-- EP or NP, ID and the level are set and every other PSW bit is kept, where the level field meets 00_scope.md R9. -/
  psw : levelFieldWf s.config = true →
    pswEP t.psw = (d.maskable || pswEP s.psw) ∧ pswNP t.psw = (!d.maskable || pswNP s.psw) ∧ pswID t.psw = true ∧
      (∀ l, d.level = some l → pswI s.config t.psw = l % 2 ^ s.config.ilWidth) ∧
      (d.level = none → pswI s.config t.psw = pswI s.config s.psw) ∧
      ∀ i, i ∉ [12, 14, 15] → ¬(s.config.ilLsb ≤ i ∧ i < s.config.ilLsb + s.config.ilWidth) →
        t.psw.getLsbD i = s.psw.getLsbD i
  /-- The handler, bit 0 dropped (10_state.md R36). -/
  pc : t.pc = d.handler &&& 0xFFFFFFFE#32
  /-- The entry ends a halt. -/
  halted : t.halted = false
  /-- The general registers, CHCW, ADTRE and memory are as before. -/
  kept : t.regs = s.regs ∧ t.chcw = s.chcw ∧ t.adtre = s.adtre ∧ t.mem = s.mem
  /-- So are the parameters, the fatal latch and the offers. -/
  control : t.config = s.config ∧ t.fatal = s.fatal ∧ t.offers = s.offers
  /-- No device region is asked. -/
  devices : devicesKept s t

/-! ### The spec's spelling of encodings and of code -/

/-- `base | (reg2 << 5) | reg1`, the form of the encodings of files 41 to 48. -/
def wordRegs (base : Half) (reg2 reg1 : BitVec 5) : Half := base ||| (reg2.setWidth 16 <<< 5) ||| reg1.setWidth 16

/-- The 2-byte instruction `i` has the half-word `w0`. -/
def encodes2 (i : Instr) (w0 : Half) : Prop := word0 i = w0 ∧ word1 i = none

/-- The 4-byte instruction `i` has the half-words `w0`, `w1`. -/
def encodes4 (i : Instr) (w0 w1 : Half) : Prop := word0 i = w0 ∧ word1 i = some w1

/-- The half-word `w` lies at `addr` in a storage region, readable as one, low byte first (20_memory.md R106, R111). -/
def codeAt (s : State) (addr : Word) (w : Half) : Prop :=
  ∃ start off backing, busTarget s.config .read .half addr = .ok (.storage start off backing) ∧
    w = halfOfBytes (Memory.read s.mem (cellAddress start off backing 0))
      (Memory.read s.mem (cellAddress start off backing 1))

/-- The tick of `s` reaches the fetch, with the state `u`: the lines offered have been merged and no request was entered (60_exceptions.md
R510 steps 0 to 2a). -/
def reachesFetch (s u : State) : Prop :=
  s.fatal = none ∧ service (mergeOffered (s.offers.headD []) { s with offers := s.offers.tail }) = .proceed u ∧
    u.halted = false

/-- The bytes at `pc` are the instruction `i`: its second half-word is there where it is fetched (30_encoding.md R141, R155). -/
def fetchedAt (u : State) (i : Instr) : Prop :=
  ∃ w0 w1, codeAt u u.pc w0 ∧ (fetchesSecond u.config w0 = true → codeAt u (u.pc + 2#32) w1) ∧
    i = decode w0 (if fetchesSecond u.config w0 then w1 else 0#16)

/-- The cells of an access of `n` bytes, the lowest address first (R111). -/
def accessCells (start off backing : Nat) (n : Width) : List Nat :=
  (List.range n.bytes).map (cellAddress start off backing)

/-! ### What the statements say of the families -/

/-- Z and S as a result leaves them (10_state.md R44 to R48). -/
def zeroSign (r : Word) (t : State) : Prop :=
  (pswZ t.psw = true ↔ r = 0#32) ∧ (pswS t.psw = true ↔ r.toInt < 0)

/-- The four flags of `a + b`: Z and S of the sum, CY the unsigned carry, OV the signed overflow (R44). -/
def addFlags (a b : Word) (t : State) : Prop :=
  zeroSign (a + b) t ∧ (pswCY t.psw = true ↔ 2 ^ 32 ≤ a.toNat + b.toNat) ∧
    (pswOV t.psw = true ↔ a.toInt + b.toInt < -2 ^ 31 ∨ 2 ^ 31 ≤ a.toInt + b.toInt)

/-- The four flags of `a - b`: Z and S of the difference, CY the borrow, OV the signed overflow (R45). -/
def subFlags (a b : Word) (t : State) : Prop :=
  zeroSign (a - b) t ∧ (pswCY t.psw = true ↔ a.toNat < b.toNat) ∧
    (pswOV t.psw = true ↔ a.toInt - b.toInt < -2 ^ 31 ∨ 2 ^ 31 ≤ a.toInt - b.toInt)

/-- `i` writes `v s` to `reg2` and no flag, and is `length` bytes long. -/
def movesValue (i : Instr) (reg2 : Reg) (length : Word) (v : State → Word) (n : Config → Nat) : Prop :=
  ∀ s, ∃ t, exec i s = .next t ∧ wrote reg2 (v s) t ∧ frame [reg2] [] [] s t ∧ retired length (n s.config) s t

/-- `i` writes the logical result `r s` to `reg2`: Z, S from it, OV 0, CY unchanged (R46). -/
def writesLogic (i : Instr) (reg2 : Reg) (length : Word) (r : State → Word) (n : Config → Nat) : Prop :=
  ∀ s, ∃ t, exec i s = .next t ∧ wrote reg2 (r s) t ∧ zeroSign (r s) t ∧ pswOV t.psw = false ∧
    frame [reg2] [0, 1, 2] [] s t ∧ retired length (n s.config) s t

/-- `i` writes the shifted value `r` to `reg2`: Z, S from it, OV 0, and CY is bit `k` of the old value, or untouched when
the amount is 0 (R47). -/
def writesShift (i : Instr) (s : State) (reg2 : Reg) (amount k : Nat) (r : Word) : Prop :=
  ∃ t, exec i s = .next t ∧ wrote reg2 r t ∧ zeroSign r t ∧ pswOV t.psw = false ∧
    (amount = 0 → pswCY t.psw = pswCY s.psw) ∧ (0 < amount → pswCY t.psw = (s.reg reg2).getLsbD k) ∧
    frame [reg2] flagBits [] s t ∧ retired 2#32 s.config.cycles.shift s t

/-- A multiply or divide that ends with the pair `hi`, `lo`: the second register first, then the destination; Z, S from
`lo`, OV as given, CY unchanged (R48; 43_muldiv.md). -/
def writesPair (i : Instr) (s : State) (reg2 : Reg) (hi lo : Word) (ov : Prop) (n : Nat) : Prop :=
  ∃ t, exec i s = .next t ∧ wrote reg2 lo t ∧ (reg2 ≠ s.config.hiReg → wrote s.config.hiReg hi t) ∧ zeroSign lo t ∧
    (pswOV t.psw = true ↔ ov) ∧ frame [reg2, s.config.hiReg] [0, 1, 2] [] s t ∧ retired 2#32 n s t

/-- The branches `i disp9` are the conditional branch on code `c` (40_branch.md R217). -/
def branchesOn (i : BitVec 9 → Instr) (c : BitVec 4) : Prop :=
  ∀ (disp9 : BitVec 9) (s : State),
    encodes2 (i disp9) (0x8000#16 ||| (c.setWidth 16 <<< 9) ||| disp9.setWidth 16) ∧
    ∃ t, exec (i disp9) s = .next t ∧ frame [] [] [] s t ∧
      (cond c s.psw = true →
        t.pc = (s.pc + BitVec.ofInt 32 disp9.toInt) &&& 0xFFFFFFFE#32 ∧ t.cycles = s.config.cycles.bcondTaken) ∧
      (cond c s.psw = false → t.pc = (s.pc + 2#32) &&& 0xFFFFFFFE#32 ∧ t.cycles = s.config.cycles.bcondNotTaken)

/-- The value of an access of `n` bytes in a storage region: little-endian, zero-extended (20_memory.md R106, R111). -/
def storedValue (m : Memory) (start off backing : Nat) : Width → Word
  | .byte => (Memory.read m (cellAddress start off backing 0)).setWidth 32
  | .half =>
    (halfOfBytes (Memory.read m (cellAddress start off backing 0))
      (Memory.read m (cellAddress start off backing 1))).setWidth 32
  | .word =>
    halfOfBytes (Memory.read m (cellAddress start off backing 2)) (Memory.read m (cellAddress start off backing 3)) ++
      halfOfBytes (Memory.read m (cellAddress start off backing 0)) (Memory.read m (cellAddress start off backing 1))

/-- Everything but `pc`, the cycle count, the listed registers and PSW bits, memory and the record of the device regions is
as before. -/
def engineFrame (regs : List Reg) (flags : List Nat) (s t : State) : Prop :=
  regsKept regs s t ∧ pswKept flags s t ∧ systemKept s t ∧ controlKept s t

/-- `i` is a load: where the bus answers the read with `v`, `reg2` takes the extended value; where the read fails, the tick is
fatal and carries the address before masking; in a storage region the answer is the stored value (47_loadstore.md;
20_memory.md R102, R103, R111). -/
def loadsValue (i : Instr) (n : Width) (extend : Word → Word) (disp16 : Half) (reg1 reg2 : Reg) : Prop :=
  ∀ s : State,
    (∀ v u, busRead n (s.reg reg1 + BitVec.ofInt 32 disp16.toInt) s = .ok (v, u) →
      ∃ t, exec i s = .next t ∧ wrote reg2 (extend v) t ∧ engineFrame [reg2] [] s t ∧ bytesKept [] s t ∧
        devicesKept u t ∧ retired 4#32 s.config.cycles.load s t) ∧
    (∀ k, busRead n (s.reg reg1 + BitVec.ofInt 32 disp16.toInt) s = .error k →
      exec i s = .fault (.busError k (s.reg reg1 + BitVec.ofInt 32 disp16.toInt) s.pc (some (word0 i)))) ∧
    (∀ start off backing,
      busTarget s.config .read n (s.reg reg1 + BitVec.ofInt 32 disp16.toInt) = .ok (.storage start off backing) →
      busRead n (s.reg reg1 + BitVec.ofInt 32 disp16.toInt) s = .ok (storedValue s.mem start off backing n, s))

/-- `i` is a store: where the bus completes the write of `x[reg2]` with the state `u`, memory and the record of the device
regions are those of `u` and the rest is kept; where the write fails, the tick is fatal; in a storage region exactly the
cells of the access take the low bytes of `x[reg2]`, a cell that takes several of them keeping the last (47_loadstore.md;
20_memory.md R102, R103, R111). -/
def storesValue (i : Instr) (n : Width) (reg2 : Reg) (disp16 : Half) (reg1 : Reg) : Prop :=
  ∀ s : State,
    (∀ u, busWrite n (s.reg reg1 + BitVec.ofInt 32 disp16.toInt) (s.reg reg2) s = .ok u →
      ∃ t, exec i s = .next t ∧ engineFrame [] [] s t ∧ bytesKept [] u t ∧ devicesKept u t ∧
        retired 4#32 s.config.cycles.store s t) ∧
    (∀ k, busWrite n (s.reg reg1 + BitVec.ofInt 32 disp16.toInt) (s.reg reg2) s = .error k →
      exec i s = .fault (.busError k (s.reg reg1 + BitVec.ofInt 32 disp16.toInt) s.pc (some (word0 i)))) ∧
    (∀ start off backing,
      busTarget s.config .write n (s.reg reg1 + BitVec.ofInt 32 disp16.toInt) = .ok (.storage start off backing) →
      ∃ t, exec i s = .next t ∧
        (∀ k, k < n.bytes →
          (∀ j, k < j → j < n.bytes → cellAddress start off backing j ≠ cellAddress start off backing k) →
          Memory.read t.mem (cellAddress start off backing k) = (s.reg reg2).extractLsb' (8 * k) 8) ∧
        frame [] [] (accessCells start off backing n) s t ∧ retired 4#32 s.config.cycles.store s t)

/-- `i` ends with the sum of `a` and `b` in `reg2` and the four flags of the addition. -/
def addsInto (i : Instr) (s : State) (reg2 : Reg) (length a b : Word) (n : Nat) : Prop :=
  ∃ t, exec i s = .next t ∧ wrote reg2 (a + b) t ∧ addFlags a b t ∧ frame [reg2] flagBits [] s t ∧ retired length n s t

/-- The numbers of the system register bank (10_state.md R50). -/
def sysNumbers : List SysReg := [0#5, 1#5, 2#5, 3#5, 4#5, 5#5, 6#5, 7#5, 24#5, 25#5]

/-- `i` raises the IllegalOpcode request and changes nothing else (60_exceptions.md R520). -/
def raisesIllegal (i : Instr) (s : State) : Prop :=
  exec i s =
    .next { s with pending := addPending .illegalOpcode s.pending, cycles := s.config.cycles.illegal }

/-- The table of 95_test_vectors.md section 2.2: for each value of `PSW[3:0]`, bit `c` is `Cond(c)`. -/
def condMasks : List Half :=
  [0xDF20#16, 0x53AC#16, 0x0FF0#16, 0x03FC#16, 0x1EE1#16, 0x12ED#16, 0xCE31#16, 0x42BD#16,
   0xD52A#16, 0x51AE#16, 0x05FA#16, 0x01FE#16, 0x14EB#16, 0x10EF#16, 0xC43B#16, 0x40BF#16]

/-- The instructions that store to memory. -/
def Instr.stores : Instr → Bool
  | .stB .. | .stH .. | .stW .. | .outB .. | .outH .. | .outW .. | .caxi .. => true
  | _ => false

/-- The instructions that may write a PSW bit other than Z, S, OV, CY: CLI, SEI, RETI and LDSR to register 5. -/
def Instr.writesControlBits : Instr → Bool
  | .cli .. | .sei .. | .reti .. => true
  | .ldsr _ regID => decide (regID = 5#5)
  | _ => false

/-- LDSR, the one instruction that writes a system register. -/
def Instr.isLdsr : Instr → Bool
  | .ldsr .. => true
  | _ => false

/-- The instructions that do not simply move past themselves: branches, jumps, RETI, and the ILLEGAL rows (10_state.md R37). -/
def Instr.transfersControl : Instr → Bool
  | .bv .. | .bc .. | .be .. | .bnh .. | .bn .. | .br .. | .blt .. | .ble .. | .bnv .. | .bnc .. | .bne .. | .bh ..
  | .bp .. | .bge .. | .bgt .. | .jmp .. | .jr .. | .jal .. | .reti .. | .illegal1B .. | .illegal32 ..
  | .illegal36 .. | .illegal3E01 .. | .illegal3E0D .. | .illegal3E0E .. | .illegal3E10 .. | .illegal3E20 .. => true
  | _ => false

end Sys2Proof.Machine
end

