-- ==== Sys2Proof/Certificates/Slice0/Obligations.lean ====
section
/-! DEFINITION. The statements for the provers, in the order of OBLIGATIONS.json. Each docstring names the rule of spec/ it
formalises. Where a statement rests on a choice of the model, or on a number or a reading the spec itself marks as not in its
source, the docstring says so and names the log entry. -/

section

open Sys2Proof Sys2Proof.Machine

/-! ### Encoding -/

/-- Words written out from the tables of 30_encoding.md and 95_test_vectors.md section 2.1 decode to their instructions. The opcode
numbers are the spec's general knowledge (log 15). -/
def Obligations.SpecWordsDecode : Prop :=
  decode 0x0441#16 0#16 = .add 1#5 2#5 ∧ decode 0x445F#16 0#16 = .addImm 0x1F#5 2#5 ∧
    decode 0x5C50#16 0#16 = .sarImm 16#5 2#5 ∧ decode 0x95FC#16 0#16 = .bne 0x1FC#9 ∧
    decode 0x7458#16 0#16 = .stsr 24#5 2#5 ∧ decode 0xAFFF#16 0xFFF0#16 = .jal 0x3FFFFF0#26 ∧
    decode 0xA441#16 0x8000#16 = .addi 0x8000#16 1#5 2#5 ∧ decode 0xCC41#16 0xFFFE#16 = .ldW 0xFFFE#16 1#5 2#5 ∧
    decode 0xF841#16 0x2C00#16 = .trncSW 1#5 2#5 0#10 ∧ decode 0x2041#16 0#16 = .mul 1#5 2#5 ∧
    decode 0x7C0B#16 0#16 = .bitstring 0x0B#10 ∧ decode 0xC800#16 0#16 = .illegal32 0#10

/-- 30_encoding.md R160: encoding a well-formed instruction, with every operand at every value, and decoding the half-words or the
bytes gives it back. -/
def Obligations.DecodeAfterEncode : Prop :=
  ∀ i : Instr, i.wellFormed = true →
    decode (word0 i) ((word1 i).getD 0#16) = i ∧ ∀ rest, decodeBytes (encodeBytes i ++ rest) = .ok i

/-- Every pair of half-words decodes to a well-formed instruction whose encoding is those half-words, the second one exactly where
the length of 30_encoding.md R142 and R155 asks for it: no bit is dropped and no pattern is shared (30_encoding.md R159; that the syntax
keeps the ignored bits is log 17). -/
def Obligations.EncodeAfterDecode : Prop :=
  ∀ w0 w1 : Half,
    (decode w0 w1).wellFormed = true ∧ word0 (decode w0 w1) = w0 ∧
      word1 (decode w0 w1) = (if instrLength w0 = 4 then some w1 else none)

/-! ### The step -/

/-- A step whose tick reaches the fetch runs the instruction whose bytes stand at `pc`: `step` is `exec` of it at the state the
fetch was made in. Where nothing is pending and nothing is offered that state is the step's own (60_exceptions.md R510; the
offers in the state are log 10). -/
def Obligations.StepRunsDecodedInstruction : Prop :=
  (∀ (s u : State) (i : Instr), reachesFetch s u → fetchedAt u i → step s = exec i u) ∧
    ∀ s : State, s.fatal = none → s.halted = false → s.offers = [] → s.pending = [] → reachesFetch s s

/-- The model's choice (log 19): every word placed by `withFetchWord` after reset decodes, and the very next step runs it. -/
def Obligations.LoadedInstructionRunsAfterReset : Prop :=
  ∀ nbits w : Nat, ∃ i, decodeTableWord nbits w = some i ∧
    step (State.reset.withFetchWord nbits w) = exec i (State.reset.withFetchWord nbits w)

/-- Where the bus refuses the fetch of either half-word the tick is fatal, with the address before masking, `pc`, and `w0` once it
is known (20_memory.md R102, R103; 60_exceptions.md R510, R536). The contents of the diagnostic are the spec's decision D16, D19. -/
def Obligations.FetchErrorsAreFatal : Prop :=
  ∀ (s u : State) (k : BusErrorKind), reachesFetch s u →
    (busTarget u.config .read .half u.pc = .error k → step s = .fault (.busError k u.pc u.pc none)) ∧
      ∀ w0, codeAt u u.pc w0 → fetchesSecond u.config w0 = true →
        busTarget u.config .read .half (u.pc + 2#32) = .error k →
        step s = .fault (.busError k (u.pc + 2#32) u.pc (some w0))

/-! ### Requests, entry and return -/

/-- Every ILLEGAL row raises the IllegalOpcode request and changes nothing else, `pc` included (60_exceptions.md R520, 30_encoding.md
R155, R156, 48_subopcode.md R415; the unassigned values are the spec's general knowledge, and that `pc` stays its decision D25). -/
def Obligations.IllegalRowsRaiseRequest : Prop :=
  ∀ (s : State) (r1 r2 : Reg) (code : BitVec 6) (u : BitVec 10),
    (encodes2 (.illegal1B u) (0x6C00#16 ||| u.setWidth 16) ∧ raisesIllegal (.illegal1B u) s) ∧
    (encodes2 (.illegal32 u) (0xC800#16 ||| u.setWidth 16) ∧ raisesIllegal (.illegal32 u) s) ∧
    (encodes2 (.illegal36 u) (0xD800#16 ||| u.setWidth 16) ∧ raisesIllegal (.illegal36 u) s) ∧
    (encodes4 (.illegal3E01 r1 r2 u) (wordRegs 0xF800#16 r2 r1) (0x0400#16 ||| u.setWidth 16) ∧
      raisesIllegal (.illegal3E01 r1 r2 u) s) ∧
    (encodes4 (.illegal3E0D r1 r2 u) (wordRegs 0xF800#16 r2 r1) (0x3400#16 ||| u.setWidth 16) ∧
      raisesIllegal (.illegal3E0D r1 r2 u) s) ∧
    (encodes4 (.illegal3E0E r1 r2 code u) (wordRegs 0xF800#16 r2 r1) ((code.setWidth 16 <<< 10) ||| u.setWidth 16) ∧
      raisesIllegal (.illegal3E0E r1 r2 code u) s) ∧
    (encodes4 (.illegal3E10 r1 r2 code u) (wordRegs 0xF800#16 r2 r1) ((code.setWidth 16 <<< 10) ||| u.setWidth 16) ∧
      raisesIllegal (.illegal3E10 r1 r2 code u) s) ∧
    (encodes4 (.illegal3E20 r1 r2 code u) (wordRegs 0xF800#16 r2 r1) ((code.setWidth 16 <<< 10) ||| u.setWidth 16) ∧
      raisesIllegal (.illegal3E20 r1 r2 code u) s)

/-- With `ADMIT_GK_INSTR` false, SETF, TRAP, HALT, ADDI and CAXI are IllegalOpcode, and of ADDI and CAXI no second half-word is
fetched (30_encoding.md R155; log 20). -/
def Obligations.UnadmittedInstructionIsIllegal : Prop :=
  ∀ s : State, s.config.admitGkInstr = false →
    (∀ (v : BitVec 1) (c : BitVec 4) (r2 : Reg), raisesIllegal (.setf v c r2) s) ∧
    (∀ (v u : BitVec 5), raisesIllegal (.trap v u) s) ∧
    (∀ u : BitVec 10, raisesIllegal (.halt u) s) ∧
    (∀ (w : Half) (r1 r2 : Reg), raisesIllegal (.addi w r1 r2) s ∧
      fetchesSecond s.config (word0 (.addi w r1 r2)) = false) ∧
    (∀ (w : Half) (r1 r2 : Reg), raisesIllegal (.caxi w r1 r2) s ∧
      fetchesSecond s.config (word0 (.caxi w r1 r2)) = false)

/-- The pending requests are a set: adding a request adds it and no other, adding it again changes nothing, and the order kept is
the model's (60_exceptions.md R511, R520; log 14). -/
def Obligations.PendingIsASet : Prop :=
  ∀ (t : IntType) (p : List IntType), pendingWf p →
    pendingWf (addPending t p) ∧ (∀ u, u ∈ addPending t p ↔ u = t ∨ u ∈ p) ∧ (t ∈ p → addPending t p = p)

/-- The chosen request is a pending one of least priority value, and some request is chosen wherever one is pending
(60_exceptions.md R512). -/
def Obligations.ChosenRequestHasLeastPriority : Prop :=
  ∀ (c : Config) (p : List IntType),
    (p ≠ [] → ∃ t, choose c p = some t) ∧
      ∀ t, choose c p = some t → t ∈ p ∧ ∀ u, u ∈ p → (descriptorOf c t).priority ≤ (descriptorOf c u).priority

/-- A request is accepted exactly if it is non-maskable, or ID is 0 and its level, at its full value, is at least the number in the
field I (60_exceptions.md R514, whose reading of the level is the spec's decision D27). -/
def Obligations.AcceptanceTest : Prop :=
  ∀ (c : Config) (p : Word) (d : Descriptor),
    (accepts c p d = true ↔
      d.maskable = false ∨
        (p.getLsbD 12 = false ∧ ∃ l, d.level = some l ∧ p.toNat / 2 ^ c.ilLsb % 2 ^ c.ilWidth ≤ l))

/-- Step 1 of the tick: the chosen request, where it is not Reset, is entered if it is accepted, with all that the entry saves and sets,
and nothing is fetched; if it is not, the tick goes on to step 2 with every request kept, or every one lost where the parameter says so (60_exceptions.md R510, R515,
R516, R521; the retention is the spec's decision D30, the setting of EP and NP its decision D28). -/
def Obligations.TickServicesOneRequest : Prop :=
  ∀ (offered : List Line) (s : State) (t : IntType),
    s.fatal = none → choose s.config (mergeOffered offered s).pending = some t → t ≠ .reset →
    (accepts s.config s.psw (descriptorOf s.config t) = true →
      tick offered s = .next
        ((applyRetention (enter (descriptorOf s.config t) (mergeOffered offered s))).setCycles s.config.cycles.entry) ∧
      ∃ u, tick offered s = .next u ∧ Entered (descriptorOf s.config t) s u ∧ u.cycles = s.config.cycles.entry ∧
        (s.config.retention = .retain →
          u.pending = removePending (descriptorOf s.config t).type (mergeOffered offered s).pending) ∧
        (s.config.retention = .drop → u.pending = [])) ∧
    (accepts s.config s.psw (descriptorOf s.config t) = false →
      (s.config.retention = .retain → tick offered s = runInstruction (mergeOffered offered s)) ∧
        (s.config.retention = .drop → tick offered s = runInstruction { s with pending := [] }))

/-- What taking an interrupt or exception saves and where it goes: the pair and the half of ECR of its class, EP or NP, ID, the
level, the handler; every other PSW bit and the rest of the state, the cycle count too, as before (`Entered`; 60_exceptions.md R521;
the setting of EP and NP is the spec's decision D28). -/
def Obligations.EntrySavesAndVectors : Prop :=
  ∀ (d : Descriptor) (s : State),
    Entered d s (enter d s) ∧ (∀ u, u ∈ (enter d s).pending ↔ u ∈ s.pending ∧ u ≠ d.type) ∧
      (enter d s).cycles = s.cycles

/-- A Reset request, offered or pending, preempts every other and resets (60_exceptions.md R513, R525; that nothing is saved is the
spec's decision D31). -/
def Obligations.ResetRequestPreempts : Prop :=
  ∀ (offered : List Line) (s : State), configWf s.config = true → s.fatal = none →
    Line.reset ∈ offered ∨ IntType.reset ∈ s.pending →
    tick offered s = .next (s.resetFrom.setCycles s.config.cycles.entry)

/-- Entry and RETI are inverse: RETI right after the entry restores `pc` and the whole PSW (60_exceptions.md R527; 44_jump_system.md
R314, whose choice of the pair is the spec's decision D29). A maskable entry made while NP is 1 is the one case left out: there
RETI takes the other pair. -/
def Obligations.EntryThenRetiRestores : Prop :=
  ∀ (d : Descriptor) (s : State) (u : BitVec 10), levelFieldWf s.config = true → s.pc.getLsbD 0 = false →
    s.psw &&& ~~~pswMask s.config = 0#32 → (d.maskable = true → pswNP s.psw = false) →
    ∃ t, exec (.reti u) (enter d s) = .next t ∧ t.pc = s.pc ∧ t.psw = s.psw ∧ t.regs = s.regs ∧ t.mem = s.mem

/-- HALT stops the engine: a tick with nothing pending and nothing offered fetches nothing and changes nothing but the cycle count it
returns (44_jump_system.md R316, general knowledge in the spec). -/
def Obligations.HaltedEngineIdles : Prop :=
  ∀ s : State, s.halted = true → s.fatal = none → s.pending = [] → s.offers = [] →
    step s = .next { s with cycles := s.config.cycles.haltIdle }

/-- Once the fatal latch is set every tick returns the recorded outcome, the first fault is the one recorded, and reset clears the
latch (10_state.md R67, the spec's decision D19; log 11). -/
def Obligations.FatalLatchIsFinal : Prop :=
  ∀ (s : State) (f : Fault),
    (s.fatal = some f → (∀ offered, tick offered s = .fault f) ∧ (stateAfter s).fatal = some f) ∧
      (step s = .fault f → (stateAfter s).fatal = some f ∧ step (stateAfter s) = .fault f) ∧
      s.resetFrom.fatal = none

/-! ### Reset and parameters -/

/-- Reset, from any state, leaves the pattern of 70_reset_and_hazards.md R600 and 10_state.md R70, and touches neither the parameters
nor the regions (R601). The sentinels and the values of CHCW, `pending` and the latches are the spec's decisions (log 2, 3, 4,
24). -/
def Obligations.ResetEstablishesPattern : Prop :=
  ∀ s : State,
    (∀ r : Reg, s.resetFrom.reg r = if r = 0#5 then 0#32 else s.config.gprSentinel) ∧
    s.resetFrom.pc = 0xFFFFFFF0#32 ∧ s.resetFrom.psw = s.config.pswReset ∧ s.resetFrom.ecr = s.config.ecrReset ∧
    s.resetFrom.eipc = s.config.sysregSentinel ∧ s.resetFrom.eipsw = s.config.sysregSentinel ∧
    s.resetFrom.fepc = s.config.sysregSentinel ∧ s.resetFrom.fepsw = s.config.sysregSentinel ∧
    s.resetFrom.adtre = s.config.sysregSentinel ∧ s.resetFrom.chcw = 0#32 ∧ s.resetFrom.pending = [] ∧
    s.resetFrom.halted = false ∧ s.resetFrom.fatal = none ∧ s.resetFrom.config = s.config ∧ s.resetFrom.mem = s.mem

/-- `State.reset` has the default parameters of 00_scope.md R8, which meet R9: every row of the table there, the two sentinels apart,
the mask of 10_state.md R42, every row of 60_exceptions.md R502, the map of 20_memory.md R97 and the counts of
70_reset_and_hazards.md R620. The numbers are the spec's general knowledge and decisions (log 4, 7, 12, 13, 22); the cartridge's
backing and the equal counts of LD and IN, ST and OUT are the model's choice (log 6, 26). -/
def Obligations.DefaultParameters : Prop :=
  configWf State.reset.config = true ∧ State.reset.psw = 0x00008000#32 ∧ State.reset.ecr = 0x0000FFF0#32 ∧
    State.reset.pc = 0xFFFFFFF0#32 ∧ State.reset.config.pswReset = 0x00008000#32 ∧
    State.reset.config.ecrReset = 0x0000FFF0#32 ∧ State.reset.config.pirValue = 0x00005346#32 ∧
    State.reset.config.tkcwValue = 0x000000E0#32 ∧ State.reset.config.ilWidth = 2 ∧ State.reset.config.ilLsb = 16 ∧
    pswMask State.reset.config = 0x0003F3EF#32 ∧ State.reset.config.linkReg = 31#5 ∧
    State.reset.config.hiReg = 30#5 ∧ State.reset.config.retention = .retain ∧
    State.reset.config.admitGkInstr = true ∧
    State.reset.config.regions =
      [⟨0x07000000, 0x01000000, .readOnly, .storage 0x01000000⟩,
       ⟨0x06000000, 0x01000000, .readWrite, .storage 0x01000000⟩,
       ⟨0x05000000, 0x01000000, .readWrite, .storage 0x10000⟩,
       ⟨0x04000000, 0x01000000, .readWrite, .unimplemented⟩,
       ⟨0x02000000, 0x01000000, .readWrite, .device .hardwareControl⟩,
       ⟨0x01000000, 0x01000000, .writeOnly, .device .sound⟩,
       ⟨0x00000000, 0x01000000, .readWrite, .device .graphics⟩] ∧
    State.reset.config.cycles =
      { bcondTaken := 3, bcondNotTaken := 1, jmp := 3, jrJal := 3, alu := 1, shift := 1, imm16 := 1, mul := 13,
        div := 38, divu := 36, load := 5, store := 4, caxi := 22, sysReg := 8, cliSei := 12, reti := 10, trap := 15,
        halt := 1, haltIdle := 1, illegal := 1, entry := 1 } ∧
    descriptorOf State.reset.config .reset = ⟨.reset, 0xFFF0#16, 0xFFFFFFF0#32, false, false, 0, none⟩ ∧
    descriptorOf State.reset.config .nmi = ⟨.nmi, 0xFFD0#16, 0xFFFFFFD0#32, false, false, 1, none⟩ ∧
    descriptorOf State.reset.config .illegalOpcode =
      ⟨.illegalOpcode, 0xFF90#16, 0xFFFFFF90#32, true, false, 4, none⟩ ∧
    (∀ v : BitVec 5, descriptorOf State.reset.config (.trap v) =
      ⟨.trap v, BitVec.ofNat 16 (0xFFA0 + v.toNat), if v.toNat < 16 then 0xFFFFFFA0#32 else 0xFFFFFFB0#32, false, false,
        5, none⟩) ∧
    ∀ n : BitVec 4, descriptorOf State.reset.config (.int n) =
      ⟨.int n, BitVec.ofNat 16 (0xFE00 + 16 * n.toNat), BitVec.ofNat 32 (0xFFFFFE00 + 16 * n.toNat), false, true,
        31 - n.toNat, some n.toNat⟩

/-! ### Invariants and whole-machine rules -/

/-- The invariant holds after reset (it is the model's collection of 10_state.md R31, R36, R42, R59, R65, R66, 00_scope.md R9 and the
canonical form of the memory). -/
def Obligations.ResetMeetsInvariant : Prop := State.Inv State.reset

/-- Every step keeps the invariant: the parameters stay well formed, `x[0]` stays 0, `pc` even, the undefined PSW bits and all of CHCW
but one bit 0, `pending` a set, and the memory canonical (10_state.md R31, R36, R42, R59, R65). -/
def Obligations.StepKeepsInvariant : Prop :=
  ∀ s t : State, s.Inv → step s = .next t → t.Inv

/-- No step changes a parameter, each step uses up one offer, and the record of the requests sent to devices only grows (00_scope.md
R17; log 1, 9, 10). -/
def Obligations.StepKeepsConfiguration : Prop :=
  ∀ s t : State, step s = .next t →
    t.config = s.config ∧ t.offers = s.offers.tail ∧ s.deviceRequests <+: t.deviceRequests

/-- 20_memory.md R104: a write to a read-only region is the error `Permission`, and no step changes a byte of a read-only region; a
request refused by the checks never reaches its region. That the state after a fatal step keeps the memory and the record of the device
requests is the model's choice: the state is `stateAfter` (log 11), the record the model's own (log 9). -/
def Obligations.ReadOnlyRegionNeverChanges : Prop :=
  ∀ (s : State) (g : Region), configWf s.config = true → g ∈ s.config.regions → g.capability = .readOnly →
    (∀ (n : Width) (addr v : Word), g.start ≤ maskAddress addr → maskAddress addr < g.start + g.size →
      busWrite n addr v s = .error .permission) ∧
      (∀ t, step s = .next t → ∀ a, g.start ≤ a → a < g.start + g.size → Memory.read t.mem a = Memory.read s.mem a) ∧
      (∀ (n : Width) (addr v : Word) (k : BusErrorKind),
        (busTarget s.config .read n addr = .error k → busRead n addr s = .error k) ∧
          (busTarget s.config .write n addr = .error k → busWrite n addr v s = .error k)) ∧
      ∀ f, step s = .fault f →
        (stateAfter s).mem = s.mem ∧ (stateAfter s).deviceRequests = s.deviceRequests

/-- No instruction but CLI, SEI, RETI and LDSR to register 5 changes a PSW bit outside Z, S, OV, CY (10_state.md R41, R43, R49; the
places of the bits are log 22). -/
def Obligations.ControlBitsWrittenByFourOnly : Prop :=
  ∀ (i : Instr) (s t : State), exec i s = .next t → Instr.writesControlBits i = false → pswKept flagBits s t

/-- No instruction but LDSR changes a system register, and none at all changes ECR (10_state.md R50, R54, R62). -/
def Obligations.SystemRegistersWrittenByLdsrOnly : Prop :=
  ∀ (i : Instr) (s t : State), exec i s = .next t →
    t.ecr = s.ecr ∧ (Instr.isLdsr i = false → systemKept s t)

/-- No instruction but a store, an OUT or CAXI changes memory (47_loadstore.md; 43 to 46, rules R320, R348). -/
def Obligations.OnlyStoresChangeMemory : Prop :=
  ∀ (i : Instr) (s t : State), exec i s = .next t → Instr.stores i = false → t.mem = s.mem

/-- Every admitted instruction that is no control transfer moves `pc` past itself, by 2 or by 4, modulo 2^32, bit 0 dropped (10_state.md
R36 to R38; that bit 0 is dropped is the spec's decision D12). -/
def Obligations.SequentialAdvance : Prop :=
  ∀ (i : Instr) (s t : State), exec i s = .next t → Instr.transfersControl i = false →
    s.config.admitGkInstr = true →
    t.pc = (s.pc + BitVec.ofNat 32 (2 * (encode i).length)) &&& 0xFFFFFFFE#32

/-! ### Registers and flags -/

/-- 10_state.md R31: register 0 reads 0, a write to it changes nothing, and a write to another register is read back and touches no
other. -/
def Obligations.RegisterZeroIsHardwired : Prop :=
  ∀ (s : State) (r q : Reg) (v : Word),
    s.reg 0#5 = 0#32 ∧ s.setReg 0#5 v = s ∧ (r ≠ 0#5 → (s.setReg r v).reg r = v) ∧
      (q ≠ r → (s.setReg r v).reg q = s.reg q)

/-- 10_state.md R44: the carry is bit 32 of the unsigned sum, Z and S come from the result, OV from the signs, which is signed overflow;
no other bit changes. -/
def Obligations.AddFlagRule : Prop :=
  ∀ p a b : Word,
    pswCY (setAddFlags p a b) = decide (2 ^ 32 ≤ a.toNat + b.toNat) ∧
      pswZ (setAddFlags p a b) = decide (a + b = 0#32) ∧ pswS (setAddFlags p a b) = (a + b).getLsbD 31 ∧
      pswOV (setAddFlags p a b) = ((a ^^^ (a + b)) &&& (b ^^^ (a + b))).getLsbD 31 ∧
      pswOV (setAddFlags p a b) = decide (a.toInt + b.toInt ≠ (a + b).toInt) ∧
      ∀ i, 4 ≤ i → (setAddFlags p a b).getLsbD i = p.getLsbD i

/-- The carry of a subtraction is the borrow, OV is signed overflow (10_state.md R45; that CY is the borrow is the spec's decision
D20). -/
def Obligations.SubtractFlagRule : Prop :=
  ∀ p a b : Word,
    pswCY (setSubFlags p a b) = decide (a.toNat < b.toNat) ∧
      pswZ (setSubFlags p a b) = decide (a - b = 0#32) ∧ pswS (setSubFlags p a b) = (a - b).getLsbD 31 ∧
      pswOV (setSubFlags p a b) = ((a ^^^ b) &&& (a ^^^ (a - b))).getLsbD 31 ∧
      pswOV (setSubFlags p a b) = decide (a.toInt - b.toInt ≠ (a - b).toInt) ∧
      ∀ i, 4 ≤ i → (setSubFlags p a b).getLsbD i = p.getLsbD i

/-- 10_state.md R46: the logical rule keeps CY, clears OV and takes Z and S from the result. The shift rule (section 3 of the file) does
so too, but puts the bit it is given into CY unless the amount is 0; which bit that is the statements on shifts say. -/
def Obligations.LogicAndShiftFlagRules : Prop :=
  ∀ (p r : Word) (n : Nat) (c : Bool),
    (pswZ (setLogicFlags p r) = decide (r = 0#32) ∧ pswS (setLogicFlags p r) = r.getLsbD 31 ∧
      pswOV (setLogicFlags p r) = false ∧ ∀ i, 3 ≤ i → (setLogicFlags p r).getLsbD i = p.getLsbD i) ∧
    pswZ (setShiftFlags p r n c) = decide (r = 0#32) ∧ pswS (setShiftFlags p r n c) = r.getLsbD 31 ∧
      pswOV (setShiftFlags p r n c) = false ∧ (0 < n → pswCY (setShiftFlags p r n c) = c) ∧
      (n = 0 → pswCY (setShiftFlags p r n c) = pswCY p) ∧
      ∀ i, 4 ≤ i → (setShiftFlags p r n c).getLsbD i = p.getLsbD i

/-- The table of the sixteen conditions over the sixteen settings of CY, OV, S, Z (95_test_vectors.md section 2.2; the code numbers of
40_branch.md R200 are the spec's general knowledge, log 15). -/
def Obligations.ConditionTable : Prop :=
  ∀ (p : Word) (c : BitVec 4), cond c p = (condMasks.getD (p.toNat % 16) 0#16).getLsbD c.toNat

/-- After a compare of `a` with `b` the conditions order them as 40_branch.md R200 says (the codes are the spec's general knowledge,
log 15; the borrow its decision D20). -/
def Obligations.CompareThenBranchOrders : Prop :=
  ∀ p a b : Word,
    (cond 0x1#4 (setSubFlags p a b) = true ↔ a.toNat < b.toNat) ∧
    (cond 0x2#4 (setSubFlags p a b) = true ↔ a = b) ∧
    (cond 0x3#4 (setSubFlags p a b) = true ↔ a.toNat ≤ b.toNat) ∧
    (cond 0x6#4 (setSubFlags p a b) = true ↔ a.toInt < b.toInt) ∧
    (cond 0x7#4 (setSubFlags p a b) = true ↔ a.toInt ≤ b.toInt) ∧
    (cond 0x9#4 (setSubFlags p a b) = true ↔ b.toNat ≤ a.toNat) ∧
    (cond 0xA#4 (setSubFlags p a b) = true ↔ a ≠ b) ∧
    (cond 0xB#4 (setSubFlags p a b) = true ↔ b.toNat < a.toNat) ∧
    (cond 0xE#4 (setSubFlags p a b) = true ↔ b.toInt ≤ a.toInt) ∧
    (cond 0xF#4 (setSubFlags p a b) = true ↔ b.toInt < a.toInt)

/-! ### Move, arithmetic, logic -/

/-- MOV in both forms, MOVEA and MOVHI write their value, no flag, and nothing else (41_arith_logic.md R230, R231; 45_immediate16.md
R340, R345). -/
def Obligations.MoveWritesValueOnly : Prop :=
  ∀ (reg1 reg2 : Reg) (imm5 : BitVec 5) (imm16 : Half),
    (encodes2 (.mov reg1 reg2) (wordRegs 0x0000#16 reg2 reg1) ∧
      movesValue (.mov reg1 reg2) reg2 2#32 (fun s => s.reg reg1) (fun c => c.cycles.alu)) ∧
    (encodes2 (.movImm imm5 reg2) (wordRegs 0x4000#16 reg2 imm5) ∧
      movesValue (.movImm imm5 reg2) reg2 2#32 (fun _ => BitVec.ofInt 32 imm5.toInt) (fun c => c.cycles.alu)) ∧
    (encodes4 (.movea imm16 reg1 reg2) (wordRegs 0xA000#16 reg2 reg1) imm16 ∧
      movesValue (.movea imm16 reg1 reg2) reg2 4#32 (fun s => s.reg reg1 + BitVec.ofInt 32 imm16.toInt)
        (fun c => c.cycles.imm16)) ∧
    (encodes4 (.movhi imm16 reg1 reg2) (wordRegs 0xBC00#16 reg2 reg1) imm16 ∧
      movesValue (.movhi imm16 reg1 reg2) reg2 4#32 (fun s => s.reg reg1 + (imm16.setWidth 32 <<< 16))
        (fun c => c.cycles.imm16))

/-- ADD in both forms and, where admitted, ADDI write the sum and the four flags of the addition (41_arith_logic.md R232, R233;
45_immediate16.md R341; 10_state.md R44). Where it is not admitted ADDI raises the IllegalOpcode request (log 20) and `pc` stays (the
spec's decision D25). -/
def Obligations.AddWritesSumAndFlags : Prop :=
  ∀ (reg1 reg2 : Reg) (imm5 : BitVec 5) (imm16 : Half) (s : State),
    (encodes2 (.add reg1 reg2) (wordRegs 0x0400#16 reg2 reg1) ∧
      addsInto (.add reg1 reg2) s reg2 2#32 (s.reg reg2) (s.reg reg1) s.config.cycles.alu) ∧
    (encodes2 (.addImm imm5 reg2) (wordRegs 0x4400#16 reg2 imm5) ∧
      addsInto (.addImm imm5 reg2) s reg2 2#32 (s.reg reg2) (BitVec.ofInt 32 imm5.toInt) s.config.cycles.alu) ∧
    (encodes4 (.addi imm16 reg1 reg2) (wordRegs 0xA400#16 reg2 reg1) imm16 ∧
      (s.config.admitGkInstr = true →
        addsInto (.addi imm16 reg1 reg2) s reg2 4#32 (s.reg reg1) (BitVec.ofInt 32 imm16.toInt)
          s.config.cycles.imm16) ∧
      (s.config.admitGkInstr = false → raisesIllegal (.addi imm16 reg1 reg2) s))

/-- SUB writes the difference, CMP in both forms writes none; all three write the four flags of the subtraction (41_arith_logic.md R234,
R235, R236; 10_state.md R45, whose borrow is the spec's decision D20). -/
def Obligations.SubtractAndCompare : Prop :=
  ∀ (reg1 reg2 : Reg) (imm5 : BitVec 5) (s : State),
    (encodes2 (.sub reg1 reg2) (wordRegs 0x0800#16 reg2 reg1) ∧
      ∃ t, exec (.sub reg1 reg2) s = .next t ∧ wrote reg2 (s.reg reg2 - s.reg reg1) t ∧
        subFlags (s.reg reg2) (s.reg reg1) t ∧ frame [reg2] flagBits [] s t ∧ retired 2#32 s.config.cycles.alu s t) ∧
    (encodes2 (.cmp reg1 reg2) (wordRegs 0x0C00#16 reg2 reg1) ∧
      ∃ t, exec (.cmp reg1 reg2) s = .next t ∧ subFlags (s.reg reg2) (s.reg reg1) t ∧
        frame [] flagBits [] s t ∧ retired 2#32 s.config.cycles.alu s t) ∧
    (encodes2 (.cmpImm imm5 reg2) (wordRegs 0x4C00#16 reg2 imm5) ∧
      ∃ t, exec (.cmpImm imm5 reg2) s = .next t ∧ subFlags (s.reg reg2) (BitVec.ofInt 32 imm5.toInt) t ∧
        frame [] flagBits [] s t ∧ retired 2#32 s.config.cycles.alu s t)

/-- OR, AND, XOR, NOT and the 16-bit-immediate forms: bitwise on the zero-extended operands, Z and S from the result, OV 0, CY kept
(41_arith_logic.md R237 to R240; 45_immediate16.md R342 to R344; 10_state.md R46). -/
def Obligations.LogicalOperations : Prop :=
  ∀ (reg1 reg2 : Reg) (imm16 : Half),
    (encodes2 (.or reg1 reg2) (wordRegs 0x3000#16 reg2 reg1) ∧
      writesLogic (.or reg1 reg2) reg2 2#32 (fun s => s.reg reg2 ||| s.reg reg1) (fun c => c.cycles.alu)) ∧
    (encodes2 (.and reg1 reg2) (wordRegs 0x3400#16 reg2 reg1) ∧
      writesLogic (.and reg1 reg2) reg2 2#32 (fun s => s.reg reg2 &&& s.reg reg1) (fun c => c.cycles.alu)) ∧
    (encodes2 (.xor reg1 reg2) (wordRegs 0x3800#16 reg2 reg1) ∧
      writesLogic (.xor reg1 reg2) reg2 2#32 (fun s => s.reg reg2 ^^^ s.reg reg1) (fun c => c.cycles.alu)) ∧
    (encodes2 (.not reg1 reg2) (wordRegs 0x3C00#16 reg2 reg1) ∧
      writesLogic (.not reg1 reg2) reg2 2#32 (fun s => ~~~s.reg reg1) (fun c => c.cycles.alu)) ∧
    (encodes4 (.ori imm16 reg1 reg2) (wordRegs 0xB000#16 reg2 reg1) imm16 ∧
      writesLogic (.ori imm16 reg1 reg2) reg2 4#32 (fun s => s.reg reg1 ||| BitVec.ofNat 32 imm16.toNat)
        (fun c => c.cycles.imm16)) ∧
    (encodes4 (.andi imm16 reg1 reg2) (wordRegs 0xB400#16 reg2 reg1) imm16 ∧
      writesLogic (.andi imm16 reg1 reg2) reg2 4#32 (fun s => s.reg reg1 &&& BitVec.ofNat 32 imm16.toNat)
        (fun c => c.cycles.imm16)) ∧
    (encodes4 (.xori imm16 reg1 reg2) (wordRegs 0xB800#16 reg2 reg1) imm16 ∧
      writesLogic (.xori imm16 reg1 reg2) reg2 4#32 (fun s => s.reg reg1 ^^^ BitVec.ofNat 32 imm16.toNat)
        (fun c => c.cycles.imm16))

/-- SETF, where admitted, writes 1 or 0 by its condition and no flag (41_arith_logic.md R241, general knowledge in the spec). -/
def Obligations.SetfWritesCondition : Prop :=
  ∀ (v : BitVec 1) (c : BitVec 4) (reg2 : Reg) (s : State),
    encodes2 (.setf v c reg2) (wordRegs 0x4800#16 reg2 (v ++ c)) ∧
      (s.config.admitGkInstr = true →
        ∃ t, exec (.setf v c reg2) s = .next t ∧ wrote reg2 (if cond c s.psw = true then 1#32 else 0#32) t ∧
          frame [reg2] [] [] s t ∧ retired 2#32 s.config.cycles.alu s t)

/-- SHL in both forms, for every amount 0 to 31: the last bit out is bit `32 - n` (42_shift.md R270, R273; 10_state.md R47). -/
def Obligations.ShiftLeft : Prop :=
  ∀ (reg1 reg2 : Reg) (imm5 : BitVec 5) (s : State),
    (encodes2 (.shl reg1 reg2) (wordRegs 0x1000#16 reg2 reg1) ∧
      writesShift (.shl reg1 reg2) s reg2 ((s.reg reg1).toNat % 32) (32 - (s.reg reg1).toNat % 32)
        (BitVec.ofNat 32 ((s.reg reg2).toNat * 2 ^ ((s.reg reg1).toNat % 32)))) ∧
    (encodes2 (.shlImm imm5 reg2) (wordRegs 0x5000#16 reg2 imm5) ∧
      writesShift (.shlImm imm5 reg2) s reg2 imm5.toNat (32 - imm5.toNat)
        (BitVec.ofNat 32 ((s.reg reg2).toNat * 2 ^ imm5.toNat)))

/-- SHR in both forms: zeros enter, the last bit out is bit `n - 1` (42_shift.md R271, R274; 10_state.md R47). -/
def Obligations.ShiftRightLogical : Prop :=
  ∀ (reg1 reg2 : Reg) (imm5 : BitVec 5) (s : State),
    (encodes2 (.shr reg1 reg2) (wordRegs 0x1400#16 reg2 reg1) ∧
      writesShift (.shr reg1 reg2) s reg2 ((s.reg reg1).toNat % 32) ((s.reg reg1).toNat % 32 - 1)
        (BitVec.ofNat 32 ((s.reg reg2).toNat / 2 ^ ((s.reg reg1).toNat % 32)))) ∧
    (encodes2 (.shrImm imm5 reg2) (wordRegs 0x5400#16 reg2 imm5) ∧
      writesShift (.shrImm imm5 reg2) s reg2 imm5.toNat (imm5.toNat - 1)
        (BitVec.ofNat 32 ((s.reg reg2).toNat / 2 ^ imm5.toNat)))

/-- SAR in both forms: copies of bit 31 enter, which is the quotient by a power of two rounded down (42_shift.md R272, R275;
10_state.md R47). -/
def Obligations.ShiftRightArithmetic : Prop :=
  ∀ (reg1 reg2 : Reg) (imm5 : BitVec 5) (s : State),
    (encodes2 (.sar reg1 reg2) (wordRegs 0x1C00#16 reg2 reg1) ∧
      writesShift (.sar reg1 reg2) s reg2 ((s.reg reg1).toNat % 32) ((s.reg reg1).toNat % 32 - 1)
        (BitVec.ofInt 32 ((s.reg reg2).toInt / 2 ^ ((s.reg reg1).toNat % 32)))) ∧
    (encodes2 (.sarImm imm5 reg2) (wordRegs 0x5C00#16 reg2 imm5) ∧
      writesShift (.sarImm imm5 reg2) s reg2 imm5.toNat (imm5.toNat - 1)
        (BitVec.ofInt 32 ((s.reg reg2).toInt / 2 ^ imm5.toNat)))

/-- MUL: the signed product over the two registers, OV exactly if it does not fit 32 bits signed (43_muldiv.md R290; `HI_REG` is 30 by
default, 00_scope.md R8). -/
def Obligations.MultiplySigned : Prop :=
  ∀ (reg1 reg2 : Reg) (s : State),
    encodes2 (.mul reg1 reg2) (wordRegs 0x2000#16 reg2 reg1) ∧
      writesPair (.mul reg1 reg2) s reg2
        (BitVec.ofInt 32 ((s.reg reg2).toInt * (s.reg reg1).toInt / 2 ^ 32))
        (BitVec.ofInt 32 ((s.reg reg2).toInt * (s.reg reg1).toInt))
        ((s.reg reg2).toInt * (s.reg reg1).toInt < -2 ^ 31 ∨ 2 ^ 31 ≤ (s.reg reg2).toInt * (s.reg reg1).toInt)
        s.config.cycles.mul

/-- MULU: the unsigned product over the two registers, OV exactly if it does not fit 32 bits (43_muldiv.md R292, whose OV is the spec's
general knowledge). -/
def Obligations.MultiplyUnsigned : Prop :=
  ∀ (reg1 reg2 : Reg) (s : State),
    encodes2 (.mulu reg1 reg2) (wordRegs 0x2800#16 reg2 reg1) ∧
      writesPair (.mulu reg1 reg2) s reg2
        (BitVec.ofNat 32 ((s.reg reg2).toNat * (s.reg reg1).toNat / 2 ^ 32))
        (BitVec.ofNat 32 ((s.reg reg2).toNat * (s.reg reg1).toNat))
        (2 ^ 32 ≤ (s.reg reg2).toNat * (s.reg reg1).toNat) s.config.cycles.mul

/-- DIV: the quotient rounded toward zero and the remainder, the one overflow case, and the fatal outcome of a zero divisor
(43_muldiv.md R291, R295). -/
def Obligations.DivideSigned : Prop :=
  ∀ (reg1 reg2 : Reg) (s : State),
    encodes2 (.div reg1 reg2) (wordRegs 0x2400#16 reg2 reg1) ∧
      (s.reg reg1 = 0#32 → exec (.div reg1 reg2) s = .fault (.divideByZero s.pc (wordRegs 0x2400#16 reg2 reg1))) ∧
      (s.reg reg2 = 0x80000000#32 → s.reg reg1 = 0xFFFFFFFF#32 →
        writesPair (.div reg1 reg2) s reg2 0#32 0x80000000#32 True s.config.cycles.div) ∧
      (s.reg reg1 ≠ 0#32 → ¬(s.reg reg2 = 0x80000000#32 ∧ s.reg reg1 = 0xFFFFFFFF#32) →
        writesPair (.div reg1 reg2) s reg2
          (BitVec.ofInt 32 ((s.reg reg2).toInt - (s.reg reg2).toInt.tdiv (s.reg reg1).toInt * (s.reg reg1).toInt))
          (BitVec.ofInt 32 ((s.reg reg2).toInt.tdiv (s.reg reg1).toInt)) False s.config.cycles.div)

/-- DIVU: the quotient and the remainder, OV 0, and the fatal outcome of a zero divisor (43_muldiv.md R293, R295). -/
def Obligations.DivideUnsigned : Prop :=
  ∀ (reg1 reg2 : Reg) (s : State),
    encodes2 (.divu reg1 reg2) (wordRegs 0x2C00#16 reg2 reg1) ∧
      (s.reg reg1 = 0#32 → exec (.divu reg1 reg2) s = .fault (.divideByZero s.pc (wordRegs 0x2C00#16 reg2 reg1))) ∧
      (s.reg reg1 ≠ 0#32 →
        writesPair (.divu reg1 reg2) s reg2
          (BitVec.ofNat 32 ((s.reg reg2).toNat - (s.reg reg2).toNat / (s.reg reg1).toNat * (s.reg reg1).toNat))
          (BitVec.ofNat 32 ((s.reg reg2).toNat / (s.reg reg1).toNat)) False s.config.cycles.divu)

/-! ### Control transfer and system instructions -/

/-- Each of the sixteen conditional branches is taken exactly if its condition holds, relative to its own address, and writes nothing but
`pc` (40_branch.md R201 to R218; the code numbers are the spec's general knowledge, log 15). -/
def Obligations.BranchesTakenByCondition : Prop :=
  branchesOn .bv 0x0#4 ∧ branchesOn .bc 0x1#4 ∧ branchesOn .be 0x2#4 ∧ branchesOn .bnh 0x3#4 ∧
    branchesOn .bn 0x4#4 ∧ branchesOn .br 0x5#4 ∧ branchesOn .blt 0x6#4 ∧ branchesOn .ble 0x7#4 ∧
    branchesOn .bnv 0x8#4 ∧ branchesOn .bnc 0x9#4 ∧ branchesOn .bne 0xA#4 ∧ branchesOn .bh 0xB#4 ∧
    branchesOn .bp 0xC#4 ∧ branchesOn .nop 0xD#4 ∧ branchesOn .bge 0xE#4 ∧ branchesOn .bgt 0xF#4

/-- JMP goes to the register, JR and JAL to their own address plus the displacement, JAL also writes the link register; bit 0 of the
target is dropped (44_jump_system.md R310; 46_longjump.md R360, R361, whose base is the spec's decision D13). -/
def Obligations.JumpsReplacePc : Prop :=
  ∀ (reg1 : Reg) (u : BitVec 5) (disp26 : BitVec 26) (s : State),
    (encodes2 (.jmp reg1 u) (wordRegs 0x1800#16 u reg1) ∧
      ∃ t, exec (.jmp reg1 u) s = .next t ∧ t.pc = s.reg reg1 &&& 0xFFFFFFFE#32 ∧ frame [] [] [] s t ∧
        t.cycles = s.config.cycles.jmp) ∧
    (encodes4 (.jr disp26) (0xA800#16 ||| (disp26.extractLsb' 16 10).setWidth 16) (disp26.extractLsb' 0 16) ∧
      ∃ t, exec (.jr disp26) s = .next t ∧
        t.pc = (s.pc + BitVec.ofInt 32 disp26.toInt) &&& 0xFFFFFFFE#32 ∧ frame [] [] [] s t ∧
        t.cycles = s.config.cycles.jrJal) ∧
    (encodes4 (.jal disp26) (0xAC00#16 ||| (disp26.extractLsb' 16 10).setWidth 16) (disp26.extractLsb' 0 16) ∧
      ∃ t, exec (.jal disp26) s = .next t ∧
        t.pc = (s.pc + BitVec.ofInt 32 disp26.toInt) &&& 0xFFFFFFFE#32 ∧ wrote s.config.linkReg (s.pc + 4#32) t ∧
        frame [s.config.linkReg] [] [] s t ∧ t.cycles = s.config.cycles.jrJal)

/-- SEI sets ID and CLI clears it, and neither changes another bit (44_jump_system.md R312, R313, both the spec's general knowledge, as
93_implementation_defined.md part K lists them). -/
def Obligations.InterruptDisableInstructions : Prop :=
  ∀ (u : BitVec 10) (s : State),
    (encodes2 (.cli u) (0x5800#16 ||| u.setWidth 16) ∧
      ∃ t, exec (.cli u) s = .next t ∧ pswID t.psw = false ∧ frame [] [12] [] s t ∧
        retired 2#32 s.config.cycles.cliSei s t) ∧
    (encodes2 (.sei u) (0x7800#16 ||| u.setWidth 16) ∧
      ∃ t, exec (.sei u) s = .next t ∧ pswID t.psw = true ∧ frame [] [12] [] s t ∧
        retired 2#32 s.config.cycles.cliSei s t)

/-- LDSR writes the register of its number, or discards the value for ECR, PIR and TKCW, and is fatal for a number outside the bank
(44_jump_system.md R317; 10_state.md R61). -/
def Obligations.LdsrWritesBank : Prop :=
  ∀ (reg2 : Reg) (regID : SysReg) (s : State),
    encodes2 (.ldsr reg2 regID) (wordRegs 0x7000#16 reg2 regID) ∧
      (regID ∈ sysNumbers →
        ∃ t, exec (.ldsr reg2 regID) s = .next t ∧
          t.eipc = (if regID = 0#5 then s.reg reg2 else s.eipc) ∧
          t.eipsw = (if regID = 1#5 then s.reg reg2 else s.eipsw) ∧
          t.fepc = (if regID = 2#5 then s.reg reg2 else s.fepc) ∧
          t.fepsw = (if regID = 3#5 then s.reg reg2 else s.fepsw) ∧
          t.ecr = s.ecr ∧
          t.psw = (if regID = 5#5 then s.reg reg2 &&& pswMask s.config else s.psw) ∧
          t.chcw = (if regID = 24#5 then s.reg reg2 &&& 0x00000002#32 else s.chcw) ∧
          t.adtre = (if regID = 25#5 then s.reg reg2 else s.adtre) ∧
          regsKept [] s t ∧ controlKept s t ∧ devicesKept s t ∧ bytesKept [] s t ∧
          retired 2#32 s.config.cycles.sysReg s t) ∧
      (regID ∉ sysNumbers →
        exec (.ldsr reg2 regID) s = .fault (.sysRegIndex regID s.pc (wordRegs 0x7000#16 reg2 regID)))

/-- STSR reads the register of its number, the constants PIR and TKCW among them, and is fatal for a number outside the bank
(44_jump_system.md R318; 10_state.md R61). -/
def Obligations.StsrReadsBank : Prop :=
  ∀ (reg2 : Reg) (regID : SysReg) (s : State),
    encodes2 (.stsr regID reg2) (wordRegs 0x7400#16 reg2 regID) ∧
      (∀ v, (regID, v) ∈ [(0#5, s.eipc), (1#5, s.eipsw), (2#5, s.fepc), (3#5, s.fepsw), (4#5, s.ecr), (5#5, s.psw),
          (6#5, s.config.pirValue), (7#5, s.config.tkcwValue), (24#5, s.chcw), (25#5, s.adtre)] →
        ∃ t, exec (.stsr regID reg2) s = .next t ∧ wrote reg2 v t ∧ frame [reg2] [] [] s t ∧
          retired 2#32 s.config.cycles.sysReg s t) ∧
      (regID ∉ sysNumbers →
        exec (.stsr regID reg2) s = .fault (.sysRegIndex regID s.pc (wordRegs 0x7400#16 reg2 regID)))

/-- RETI restores `pc` and the PSW from the FE pair if NP is 1, else from the EI pair, and changes nothing else (44_jump_system.md R314;
that NP chooses is the spec's decision D29). -/
def Obligations.RetiRestoresPair : Prop :=
  ∀ (u : BitVec 10) (s : State),
    encodes2 (.reti u) (0x6400#16 ||| u.setWidth 16) ∧
      ∃ t, exec (.reti u) s = .next t ∧
        t.pc = (if pswNP s.psw = true then s.fepc else s.eipc) &&& 0xFFFFFFFE#32 ∧
        t.psw = (if pswNP s.psw = true then s.fepsw else s.eipsw) &&& pswMask s.config ∧
        regsKept [] s t ∧ systemKept s t ∧ controlKept s t ∧ devicesKept s t ∧ bytesKept [] s t ∧
        t.cycles = s.config.cycles.reti

/-- TRAP, where admitted, raises its request and moves on; HALT, where admitted, sets the latch and moves on; neither changes anything
else (44_jump_system.md R315, R316, general knowledge in the spec). -/
def Obligations.TrapAndHalt : Prop :=
  ∀ (v u5 : BitVec 5) (u : BitVec 10) (s : State),
    encodes2 (.trap v u5) (wordRegs 0x6000#16 u5 v) ∧ encodes2 (.halt u) (0x6800#16 ||| u.setWidth 16) ∧
      (s.config.admitGkInstr = true →
        exec (.trap v u5) s =
          .next { s with pending := addPending (.trap v) s.pending, pc := (s.pc + 2#32) &&& 0xFFFFFFFE#32,
                         cycles := s.config.cycles.trap } ∧
        exec (.halt u) s =
          .next { s with halted := true, pc := (s.pc + 2#32) &&& 0xFFFFFFFE#32, cycles := s.config.cycles.halt })

/-! ### Memory -/

/-- 20_memory.md R98, R99: the address is masked to 27 bits; in a table of regions that do not overlap at most one holds it, and that
one is found, and the local offset counts from its start; if there is none the request fails with `Unmapped`. -/
def Obligations.BusResolution : Prop :=
  ∀ (c : Config) (addr : Word), regionsWf c.regions = true →
    maskAddress addr = addr.toNat % 2 ^ 27 ∧
      (∀ g h : Region, g ∈ c.regions → h ∈ c.regions → g.start ≤ maskAddress addr →
        maskAddress addr < g.start + g.size → h.start ≤ maskAddress addr → maskAddress addr < h.start + h.size →
        g = h) ∧
      (∀ g : Region, g ∈ c.regions → g.start ≤ maskAddress addr → maskAddress addr < g.start + g.size →
        resolve c.regions (maskAddress addr) = some g ∧
          ∀ (dir : Direction) (n : Width),
            (∀ start off backing, busTarget c dir n addr = .ok (.storage start off backing) →
              start = g.start ∧ off = maskAddress addr - g.start) ∧
            ∀ d off, busTarget c dir n addr = .ok (.device d off) → off = maskAddress addr - g.start) ∧
      ((∀ g : Region, g ∈ c.regions → ¬(g.start ≤ maskAddress addr ∧ maskAddress addr < g.start + g.size)) →
        ∀ (dir : Direction) (n : Width), busTarget c dir n addr = .error .unmapped)

/-- The checks of a request in their order: capability, then the end of the region, then the region's kind (20_memory.md R100, R108, R94;
the order is the spec's decision D17, the end of the region its decision D15). -/
def Obligations.BusChecksInOrder : Prop :=
  ∀ (c : Config) (addr : Word) (g : Region) (dir : Direction) (n : Width),
    resolve c.regions (maskAddress addr) = some g →
    (permits g.capability dir = false → busTarget c dir n addr = .error .permission) ∧
      (permits g.capability dir = true → g.size < maskAddress addr - g.start + n.bytes →
        busTarget c dir n addr = .error .unimplemented) ∧
      (permits g.capability dir = true → maskAddress addr - g.start + n.bytes ≤ g.size →
        (∀ backing, g.kind = .storage backing →
          busTarget c dir n addr = .ok (.storage g.start (maskAddress addr - g.start) backing)) ∧
        (∀ d, g.kind = .device d → busTarget c dir n addr = .ok (.device d (maskAddress addr - g.start))) ∧
        (g.kind = .unimplemented → busTarget c dir n addr = .error .unimplemented))

/-- A completed request to a device region is recorded with the local offset, and its answer is the next scheduled one, or the free value
where none is scheduled, whatever that is, `Unimplemented` among it (70_reset_and_hazards.md R633; the schedule and the free value are log 8 and 9). -/
def Obligations.DeviceRequestsAreRecorded : Prop :=
  ∀ (s : State) (n : Width) (addr v : Word) (d : Device) (off : Nat),
    (busTarget s.config .read n addr = .ok (.device d off) →
      (s.deviceAnswers = [] →
        busRead n addr s =
          match Config.deviceAnswer s.freeIndex with
          | some w => .ok (lowBytes n w,
              { s with freeIndex := s.freeIndex + 1,
                       deviceRequests := s.deviceRequests ++
                         [{ device := d, direction := .read, width := n, offset := off, data := 0#32 }] })
          | none => .error .unimplemented) ∧
      (∀ w rest, s.deviceAnswers = .done w :: rest →
        busRead n addr s = .ok (lowBytes n w,
          { s with deviceAnswers := rest,
                   deviceRequests := s.deviceRequests ++
                     [{ device := d, direction := .read, width := n, offset := off, data := 0#32 }] })) ∧
      (∀ rest, s.deviceAnswers = .unimplemented :: rest → busRead n addr s = .error .unimplemented)) ∧
    (busTarget s.config .write n addr = .ok (.device d off) →
      (s.deviceAnswers = [] →
        busWrite n addr v s =
          match Config.deviceAnswer s.freeIndex with
          | some _ => .ok
              { s with freeIndex := s.freeIndex + 1,
                       deviceRequests := s.deviceRequests ++
                         [{ device := d, direction := .write, width := n, offset := off, data := lowBytes n v }] }
          | none => .error .unimplemented) ∧
      (∀ w rest, s.deviceAnswers = .done w :: rest →
        busWrite n addr v s = .ok
          { s with deviceAnswers := rest,
                   deviceRequests := s.deviceRequests ++
                     [{ device := d, direction := .write, width := n, offset := off, data := lowBytes n v }] }) ∧
      (∀ rest, s.deviceAnswers = .unimplemented :: rest → busWrite n addr v s = .error .unimplemented))

/-- LD sign-extends and IN zero-extends what the bus answers; memory is unchanged; a failed request is fatal (47_loadstore.md R371 to
R373, R377 to R379). What a storage region answers, the little-endian value of its cells, is the spec's decisions D14 and D18
(20_memory.md R106, R111). -/
def Obligations.LoadsExtendBusAnswer : Prop :=
  ∀ (disp16 : Half) (reg1 reg2 : Reg),
    (encodes4 (.ldB disp16 reg1 reg2) (wordRegs 0xC000#16 reg2 reg1) disp16 ∧
      loadsValue (.ldB disp16 reg1 reg2) .byte (fun v => BitVec.ofInt 32 (v.extractLsb' 0 8).toInt) disp16 reg1 reg2) ∧
    (encodes4 (.ldH disp16 reg1 reg2) (wordRegs 0xC400#16 reg2 reg1) disp16 ∧
      loadsValue (.ldH disp16 reg1 reg2) .half (fun v => BitVec.ofInt 32 (v.extractLsb' 0 16).toInt) disp16 reg1 reg2) ∧
    (encodes4 (.ldW disp16 reg1 reg2) (wordRegs 0xCC00#16 reg2 reg1) disp16 ∧
      loadsValue (.ldW disp16 reg1 reg2) .word (fun v => v) disp16 reg1 reg2) ∧
    (encodes4 (.inB disp16 reg1 reg2) (wordRegs 0xE000#16 reg2 reg1) disp16 ∧
      loadsValue (.inB disp16 reg1 reg2) .byte (fun v => BitVec.ofNat 32 (v.toNat % 2 ^ 8)) disp16 reg1 reg2) ∧
    (encodes4 (.inH disp16 reg1 reg2) (wordRegs 0xE400#16 reg2 reg1) disp16 ∧
      loadsValue (.inH disp16 reg1 reg2) .half (fun v => BitVec.ofNat 32 (v.toNat % 2 ^ 16)) disp16 reg1 reg2) ∧
    (encodes4 (.inW disp16 reg1 reg2) (wordRegs 0xEC00#16 reg2 reg1) disp16 ∧
      loadsValue (.inW disp16 reg1 reg2) .word (fun v => v) disp16 reg1 reg2)

/-- ST and OUT write the low bytes of the data register where the effective address says, and no other byte; a failed request is fatal
(47_loadstore.md R374 to R376, R383 to R385). Which cells of a storage region take the bytes is the spec's decisions D14 and D18
(20_memory.md R106, R111); where its backing is shorter than the access a cell keeps the last byte it takes. -/
def Obligations.StoresWriteLowBytes : Prop :=
  ∀ (disp16 : Half) (reg1 reg2 : Reg),
    (encodes4 (.stB reg2 disp16 reg1) (wordRegs 0xD000#16 reg2 reg1) disp16 ∧
      storesValue (.stB reg2 disp16 reg1) .byte reg2 disp16 reg1) ∧
    (encodes4 (.stH reg2 disp16 reg1) (wordRegs 0xD400#16 reg2 reg1) disp16 ∧
      storesValue (.stH reg2 disp16 reg1) .half reg2 disp16 reg1) ∧
    (encodes4 (.stW reg2 disp16 reg1) (wordRegs 0xDC00#16 reg2 reg1) disp16 ∧
      storesValue (.stW reg2 disp16 reg1) .word reg2 disp16 reg1) ∧
    (encodes4 (.outB reg2 disp16 reg1) (wordRegs 0xF000#16 reg2 reg1) disp16 ∧
      storesValue (.outB reg2 disp16 reg1) .byte reg2 disp16 reg1) ∧
    (encodes4 (.outH reg2 disp16 reg1) (wordRegs 0xF400#16 reg2 reg1) disp16 ∧
      storesValue (.outH reg2 disp16 reg1) .half reg2 disp16 reg1) ∧
    (encodes4 (.outW reg2 disp16 reg1) (wordRegs 0xFC00#16 reg2 reg1) disp16 ∧
      storesValue (.outW reg2 disp16 reg1) .word reg2 disp16 reg1)

/-- After a word is stored in a storage region, a read of any width inside it gives the bytes stored, little-endian, through every
mirror of the region (20_memory.md R106, R111; 47_loadstore.md R387; the mirrors are the spec's decision D18). -/
def Obligations.StoreThenLoadMirrors : Prop :=
  ∀ (s u : State) (addr addr' v : Word) (start off off' backing k : Nat) (n : Width),
    4 ≤ backing → k + n.bytes ≤ 4 → off' % backing = (off + k) % backing →
    busTarget s.config .write .word addr = .ok (.storage start off backing) → busWrite .word addr v s = .ok u →
    busTarget s.config .read n addr' = .ok (.storage start off' backing) →
    busRead n addr' u = .ok (BitVec.ofNat 32 (v.toNat / 2 ^ (8 * k) % 2 ^ (8 * n.bytes)), u)

/-- CAXI, where admitted: the word read goes to `reg2`, the flags compare the old `reg2` with it, and the write made in both cases is of
`x[30]` if they are equal and of the word itself if not; a failed read or write is fatal (47_loadstore.md R382, general knowledge in
the spec; log 21). -/
def Obligations.CaxiExchanges : Prop :=
  ∀ (disp16 : Half) (reg1 reg2 : Reg) (s : State),
    encodes4 (.caxi disp16 reg1 reg2) (wordRegs 0xE800#16 reg2 reg1) disp16 ∧
      (s.config.admitGkInstr = true →
        (∀ m s1 s2, busRead .word (s.reg reg1 + BitVec.ofInt 32 disp16.toInt) s = .ok (m, s1) →
          busWrite .word (s.reg reg1 + BitVec.ofInt 32 disp16.toInt) (if s.reg reg2 = m then s.reg 30#5 else m) s1 =
            .ok s2 →
          ∃ t, exec (.caxi disp16 reg1 reg2) s = .next t ∧ wrote reg2 m t ∧ subFlags (s.reg reg2) m t ∧
            engineFrame [reg2] flagBits s t ∧ bytesKept [] s2 t ∧ devicesKept s2 t ∧
            retired 4#32 s.config.cycles.caxi s t) ∧
        (∀ start off backing,
          busTarget s.config .read .word (s.reg reg1 + BitVec.ofInt 32 disp16.toInt) = .ok (.storage start off backing) →
          busTarget s.config .write .word (s.reg reg1 + BitVec.ofInt 32 disp16.toInt) = .ok (.storage start off backing) →
          ∃ t, exec (.caxi disp16 reg1 reg2) s = .next t ∧ wrote reg2 (storedValue s.mem start off backing .word) t ∧
            (∀ k, k < 4 →
              (∀ j, k < j → j < 4 → cellAddress start off backing j ≠ cellAddress start off backing k) →
              Memory.read t.mem (cellAddress start off backing k) =
              (if s.reg reg2 = storedValue s.mem start off backing .word then s.reg 30#5
                else storedValue s.mem start off backing .word).extractLsb' (8 * k) 8) ∧
            frame [reg2] flagBits (accessCells start off backing .word) s t) ∧
        (∀ k, busRead .word (s.reg reg1 + BitVec.ofInt 32 disp16.toInt) s = .error k →
          exec (.caxi disp16 reg1 reg2) s =
            .fault (.busError k (s.reg reg1 + BitVec.ofInt 32 disp16.toInt) s.pc
              (some (word0 (.caxi disp16 reg1 reg2))))) ∧
        (∀ m s1 k, busRead .word (s.reg reg1 + BitVec.ofInt 32 disp16.toInt) s = .ok (m, s1) →
          busWrite .word (s.reg reg1 + BitVec.ofInt 32 disp16.toInt) (if s.reg reg2 = m then s.reg 30#5 else m) s1 =
            .error k →
          exec (.caxi disp16 reg1 reg2) s =
            .fault (.busError k (s.reg reg1 + BitVec.ofInt 32 disp16.toInt) s.pc
              (some (word0 (.caxi disp16 reg1 reg2))))))

/-! ### The sub-opcoded instructions -/

/-- BITSTRING and the twelve recognized instructions of Format VII are refused, by name, with `pc` and their half-words (48_subopcode.md
R400 to R414, the spec's decision D24; log 16). -/
def Obligations.SubOpcodedAreRefused : Prop :=
  ∀ (r1 r2 : Reg) (u : BitVec 10) (s : State),
    (encodes2 (.bitstring u) (0x7C00#16 ||| u.setWidth 16) ∧
      exec (.bitstring u) s = .refused (.bitString s.pc (0x7C00#16 ||| u.setWidth 16))) ∧
    ∀ (i : Instr) (name : String) (sub : Half),
      (i, name, sub) ∈ [(.cmpfS r1 r2 u, "CMPF.S", 0x0000#16), (.cvtWS r1 r2 u, "CVT.WS", 0x0800#16),
        (.cvtSW r1 r2 u, "CVT.SW", 0x0C00#16), (.addfS r1 r2 u, "ADDF.S", 0x1000#16),
        (.subfS r1 r2 u, "SUBF.S", 0x1400#16), (.mulfS r1 r2 u, "MULF.S", 0x1800#16),
        (.divfS r1 r2 u, "DIVF.S", 0x1C00#16), (.xb r1 r2 u, "XB", 0x2000#16), (.xh r1 r2 u, "XH", 0x2400#16),
        (.rev r1 r2 u, "REV", 0x2800#16), (.trncSW r1 r2 u, "TRNC.SW", 0x2C00#16),
        (.mpyhw r1 r2 u, "MPYHW", 0x3000#16)] →
      encodes4 i (wordRegs 0xF800#16 r2 r1) (sub ||| u.setWidth 16) ∧
        exec i s = .refused (.formatVII name s.pc (wordRegs 0xF800#16 r2 r1) (sub ||| u.setWidth 16))

end
end

