-- ==== Sys2Proof/Laws/Bits.lean ====
section
/-! SUPPORT. The bits of the bit-field primitives (spec/00_scope.md R11), of PSW updates, and the places of the PSW mask
(10_state.md R42). -/

namespace Sys2Proof

/-- Bit `i` of a field mask. -/
theorem getLsbD_fieldMask (pos len i : Nat) :
    (fieldMask pos len).getLsbD i = decide (pos ≤ i ∧ i < pos + len ∧ i < 32) := by
  unfold fieldMask
  rw [BitVec.getLsbD_shiftLeft, BitVec.getLsbD_ofNat, Nat.testBit_two_pow_sub_one, Bool.eq_iff_iff]
  simp only [Bool.and_eq_true, decide_eq_true_eq, Bool.not_eq_true', decide_eq_false_iff_not]
  omega

/-- Bit `i` after a field is replaced. -/
theorem getLsbD_insertField (value : Word) (pos len : Nat) (into : Word) (i : Nat) :
    (insertField value pos len into).getLsbD i =
      if pos ≤ i ∧ i < pos + len ∧ i < 32 then value.getLsbD (i - pos) else into.getLsbD i := by
  unfold insertField
  rw [BitVec.getLsbD_or, BitVec.getLsbD_and, BitVec.getLsbD_not, BitVec.getLsbD_and, getLsbD_fieldMask,
    BitVec.getLsbD_shiftLeft]
  by_cases h : pos ≤ i ∧ i < pos + len ∧ i < 32
  · have h1 : ¬ i < pos := by omega
    simp [h, h1]
  · rw [if_neg h, decide_eq_false h]
    by_cases hi : i < 32
    · simp [hi]
    · simp [hi, BitVec.getLsbD_of_ge into i (by omega)]

/-- Bit `i` after one bit is replaced. -/
theorem getLsbD_setBit (p : Word) (pos : Nat) (b : Bool) (i : Nat) :
    (setBit p pos b).getLsbD i = if i = pos ∧ i < 32 then b else p.getLsbD i := by
  unfold setBit
  rw [getLsbD_insertField]
  by_cases h : i = pos ∧ i < 32
  · obtain ⟨rfl, h2⟩ := h
    cases b <;> simp [h2]
  · rw [if_neg h, if_neg (by omega)]

namespace Machine

/-- Bit `i` of the PSW after `setZeroSignOverflow`. -/
theorem getLsbD_setZeroSignOverflow (p : Word) (z s o : Bool) (i : Nat) :
    (setZeroSignOverflow p z s o).getLsbD i =
      if i = 0 then z else if i = 1 then s else if i = 2 then o else p.getLsbD i := by
  unfold setZeroSignOverflow
  rw [getLsbD_setBit, getLsbD_setBit, getLsbD_setBit]
  by_cases h0 : i = 0 <;> by_cases h1 : i = 1 <;> by_cases h2 : i = 2 <;> simp_all

/-- Bit `i` of the PSW after `setZeroSignOverflowCarry`. -/
theorem getLsbD_setZeroSignOverflowCarry (p : Word) (z s o c : Bool) (i : Nat) :
    (setZeroSignOverflowCarry p z s o c).getLsbD i =
      if i = 0 then z else if i = 1 then s else if i = 2 then o else if i = 3 then c else p.getLsbD i := by
  unfold setZeroSignOverflowCarry
  rw [getLsbD_setBit, getLsbD_setZeroSignOverflow]
  by_cases h3 : i = 3 <;> simp_all

/-- The flag updates touch bits 0 to 3 only. -/
theorem getLsbD_setAddFlags_of_ge (p a b : Word) {i : Nat} (h : 4 ≤ i) :
    (setAddFlags p a b).getLsbD i = p.getLsbD i := by
  unfold setAddFlags
  simp only [getLsbD_setZeroSignOverflowCarry]
  rw [if_neg (by omega), if_neg (by omega), if_neg (by omega), if_neg (by omega)]

theorem getLsbD_setSubFlags_of_ge (p a b : Word) {i : Nat} (h : 4 ≤ i) :
    (setSubFlags p a b).getLsbD i = p.getLsbD i := by
  unfold setSubFlags
  simp only [getLsbD_setZeroSignOverflowCarry]
  rw [if_neg (by omega), if_neg (by omega), if_neg (by omega), if_neg (by omega)]

theorem getLsbD_setLogicFlags (p r : Word) (i : Nat) :
    (setLogicFlags p r).getLsbD i =
      if i = 0 then decide (r = 0#32) else if i = 1 then r.getLsbD 31 else if i = 2 then false else p.getLsbD i := by
  unfold setLogicFlags; rw [getLsbD_setZeroSignOverflow]

theorem getLsbD_setMulDivFlags (p lo : Word) (ov : Bool) (i : Nat) :
    (setMulDivFlags p lo ov).getLsbD i =
      if i = 0 then decide (lo = 0#32) else if i = 1 then lo.getLsbD 31 else if i = 2 then ov else p.getLsbD i := by
  unfold setMulDivFlags; rw [getLsbD_setZeroSignOverflow]

theorem getLsbD_setShiftFlags (p r : Word) (n : Nat) (c : Bool) (i : Nat) :
    (setShiftFlags p r n c).getLsbD i =
      if i = 0 then decide (r = 0#32) else if i = 1 then r.getLsbD 31 else if i = 2 then false
      else if i = 3 ∧ n ≠ 0 then c else p.getLsbD i := by
  unfold setShiftFlags
  by_cases hn : n = 0
  · simp [hn, getLsbD_setZeroSignOverflow]
  · simp only [hn, if_false, getLsbD_setBit, getLsbD_setZeroSignOverflow]
    by_cases h3 : i = 3 <;> simp_all

/-- Bit `i` of the PSW mask. -/
theorem getLsbD_pswMask (c : Config) (i : Nat) :
    (pswMask c).getLsbD i =
      ((0x0000F3EF#32).getLsbD i || decide (c.ilLsb ≤ i ∧ i < c.ilLsb + c.ilWidth ∧ i < 32)) := by
  have h : pswMask c = 0x0000F3EF#32 ||| fieldMask c.ilLsb c.ilWidth := rfl
  rw [h, BitVec.getLsbD_or, getLsbD_fieldMask]

/-- A PSW within the mask, bit by bit. -/
theorem psw_within_mask_iff (c : Config) (p : Word) :
    p &&& ~~~pswMask c = 0#32 ↔ ∀ i, p.getLsbD i = true → (pswMask c).getLsbD i = true := by
  constructor
  · intro h i hp
    have hi : i < 32 := BitVec.lt_of_getLsbD hp
    have := congrArg (fun q : Word => q.getLsbD i) h
    simp [hp, hi] at this
    exact this
  · intro h
    apply BitVec.eq_of_getLsbD_eq
    intro i hi
    have := h i
    cases hp : p.getLsbD i <;> simp_all

end Machine

end Sys2Proof
end

