-- ==== Sys2Proof/Laws/Memory.lean ====
section
/-! SUPPORT. The memory's laws: a read after a write, the canonical form kept by every operation, equal reads of equal
canonical memories, and the bytes of wider values. -/

namespace Sys2Proof.Machine

open Sys2Proof

@[simp] theorem Memory.read_nil (a : Nat) : Memory.read [] a = Memory.unlisted := rfl

/-- Reading after a cell is erased. -/
theorem Memory.read_erase (m : Memory) (a b : Nat) :
    Memory.read (Memory.erase m a) b = if b = a then Memory.unlisted else Memory.read m b := by
  induction m with
  | nil => simp [Memory.erase]
  | cons c m ih =>
    obtain ⟨k, v⟩ := c
    by_cases hak : a = k
    · subst hak
      by_cases hb : b = a <;> simp_all [Memory.erase, Memory.read]
    · by_cases hb : b = a
      · subst hb; simp_all [Memory.erase, Memory.read]
      · by_cases hbk : b = k <;> simp_all [Memory.erase, Memory.read]

/-- An erased cell reads as an unlisted one. -/
theorem Memory.read_insert (m : Memory) (a b : Nat) (v : Byte) (h : ∀ w, (a, w) ∉ m) :
    Memory.read (Memory.insert m a v) b = if b = a then v else Memory.read m b := by
  induction m with
  | nil => simp [Memory.insert, Memory.read]
  | cons c m ih =>
    obtain ⟨k, w⟩ := c
    have hk : a ≠ k := fun e => h w (by simp [e])
    have hm : ∀ w, (a, w) ∉ m := fun w hw => h w (List.mem_cons_of_mem _ hw)
    by_cases hlt : a < k
    · simp [Memory.insert, hlt, Memory.read]
    · by_cases hb : b = a
      · subst hb; simp [Memory.insert, hlt, Memory.read, hk, ih hm]
      · by_cases hbk : b = k
        · simp [Memory.insert, hlt, Memory.read, hbk, hk.symm]
        · simp [Memory.insert, hlt, Memory.read, hbk, ih hm, hb]

theorem Memory.not_mem_erase (m : Memory) (a : Nat) : ∀ w, (a, w) ∉ Memory.erase m a := by
  induction m with
  | nil => simp [Memory.erase]
  | cons c m ih =>
    obtain ⟨k, v⟩ := c
    by_cases hak : a = k <;> simp_all [Memory.erase]

/-- The first law: a read after a write, at the written address and at every other. -/
theorem Memory.read_write (m : Memory) (a b : Nat) (v : Byte) :
    Memory.read (Memory.write m a v) b = if b = a then v else Memory.read m b := by
  unfold Memory.write
  split
  · rename_i hv
    rw [Memory.read_erase, hv]
  · rw [Memory.read_insert _ _ _ _ (Memory.not_mem_erase m a), Memory.read_erase]
    by_cases hb : b = a <;> simp [hb]

@[simp] theorem Memory.read_write_same (m : Memory) (a : Nat) (v : Byte) :
    Memory.read (Memory.write m a v) a = v := by simp [Memory.read_write]

theorem Memory.read_write_ne (m : Memory) {a b : Nat} (v : Byte) (h : b ≠ a) :
    Memory.read (Memory.write m a v) b = Memory.read m b := by simp [Memory.read_write, h]

/-! ### The canonical form -/

@[simp] theorem Memory.wf_nil : Memory.wf [] = true := rfl

theorem Memory.wfAbove_erase (m : Memory) (low : Option Nat) (a : Nat) (h : Memory.wfAbove low m = true) :
    Memory.wfAbove low (Memory.erase m a) = true := by
  induction m generalizing low with
  | nil => simp [Memory.erase, Memory.wfAbove]
  | cons c m ih =>
    obtain ⟨k, v⟩ := c
    simp only [Memory.wfAbove, Bool.and_eq_true, decide_eq_true_eq] at h
    by_cases hak : a = k
    · simp only [Memory.erase, hak, if_true]
      refine hak ▸ ih low ?_
      cases m with
      | nil => simp [Memory.wfAbove]
      | cons c' m' =>
        obtain ⟨k', v'⟩ := c'
        simp only [Memory.wfAbove, Bool.and_eq_true, decide_eq_true_eq, Option.all_some] at h ⊢
        refine ⟨⟨?_, h.2.1.2⟩, h.2.2⟩
        cases low with
        | none => simp
        | some l =>
          have := h.1.1
          simp only [Option.all_some, decide_eq_true_eq] at this ⊢
          omega
    · simp only [Memory.erase, hak, if_false, Memory.wfAbove, Bool.and_eq_true, decide_eq_true_eq]
      exact ⟨h.1, ih _ h.2⟩

theorem Memory.wfAbove_insert (m : Memory) (low : Option Nat) (a : Nat) (v : Byte) (h : Memory.wfAbove low m = true)
    (hv : v ≠ Memory.unlisted) (hl : low.all (fun l => decide (l < a)) = true) (ha : ∀ w, (a, w) ∉ m) :
    Memory.wfAbove low (Memory.insert m a v) = true := by
  induction m generalizing low with
  | nil => simp [Memory.insert, Memory.wfAbove, hl, hv]
  | cons c m ih =>
    obtain ⟨k, w⟩ := c
    have hk : a ≠ k := fun e => ha w (by simp [e])
    simp only [Memory.wfAbove, Bool.and_eq_true, decide_eq_true_eq] at h
    by_cases hlt : a < k
    · simp [Memory.insert, hlt, Memory.wfAbove, hl, hv, h.1.2, h.2]
    · simp only [Memory.insert, hlt, if_false, Memory.wfAbove, Bool.and_eq_true, decide_eq_true_eq]
      refine ⟨h.1, ih _ h.2 ?_ (fun w hw => ha w (List.mem_cons_of_mem _ hw))⟩
      simp only [Option.all_some, decide_eq_true_eq]
      omega

/-- A write keeps the canonical form. -/
theorem Memory.write_wf (m : Memory) (a : Nat) (v : Byte) (h : Memory.wf m = true) :
    Memory.wf (Memory.write m a v) = true := by
  unfold Memory.write Memory.wf
  split
  · exact Memory.wfAbove_erase m none a h
  · rename_i hv
    exact Memory.wfAbove_insert _ none a v (Memory.wfAbove_erase m none a h) hv rfl (Memory.not_mem_erase m a)

/-- Storing several bytes keeps the canonical form. -/
theorem writeBytes_wf (m : Memory) (start off backing : Nat) (v : Word) (n : Nat) (h : Memory.wf m = true) :
    Memory.wf (writeBytes m start off backing v n) = true := by
  induction n with
  | zero => exact h
  | succ n ih => exact Memory.write_wf _ _ _ ih

theorem Memory.wfAbove_of_some {m : Memory} {l : Nat} (h : Memory.wfAbove (some l) m = true) :
    Memory.wfAbove none m = true := by
  cases m with
  | nil => rfl
  | cons c m => obtain ⟨k, v⟩ := c; simp_all [Memory.wfAbove]

/-- Below its bound a canonical memory lists nothing. -/
theorem Memory.read_of_le {m : Memory} {l a : Nat} (h : Memory.wfAbove (some l) m = true) (ha : a ≤ l) :
    Memory.read m a = Memory.unlisted := by
  induction m generalizing l with
  | nil => rfl
  | cons c m ih =>
    obtain ⟨k, v⟩ := c
    simp only [Memory.wfAbove, Bool.and_eq_true, decide_eq_true_eq, Option.all_some] at h
    have hk : a ≠ k := by omega
    simp only [Memory.read, hk, if_false]
    exact ih h.2 (by omega)

/-- Canonical memories that read alike everywhere are the same list. -/
theorem Memory.eq_of_read_eq {m m' : Memory} (h : Memory.wf m = true) (h' : Memory.wf m' = true)
    (e : ∀ a, Memory.read m a = Memory.read m' a) : m = m' := by
  induction m generalizing m' with
  | nil =>
    cases m' with
    | nil => rfl
    | cons c m' =>
      obtain ⟨k, v⟩ := c
      have := e k
      simp only [Memory.wf, Memory.wfAbove, Bool.and_eq_true, decide_eq_true_eq] at h'
      simp [Memory.read] at this
      exact absurd this.symm h'.1.2
  | cons c m ih =>
    obtain ⟨k, v⟩ := c
    cases m' with
    | nil =>
      have := e k
      simp only [Memory.wf, Memory.wfAbove, Bool.and_eq_true, decide_eq_true_eq] at h
      simp [Memory.read] at this
      exact absurd this h.1.2
    | cons c' m' =>
      obtain ⟨k', v'⟩ := c'
      simp only [Memory.wf, Memory.wfAbove, Bool.and_eq_true, decide_eq_true_eq] at h h'
      have hkk : k = k' := by
        rcases Nat.lt_trichotomy k k' with hlt | heq | hgt
        · have := e k
          simp only [Memory.read, if_true, Nat.ne_of_lt hlt, if_false] at this
          rw [Memory.read_of_le h'.2 (Nat.le_of_lt hlt)] at this
          exact absurd this h.1.2
        · exact heq
        · have := e k'
          simp only [Memory.read, if_true, Nat.ne_of_lt hgt, if_false] at this
          rw [Memory.read_of_le h.2 (Nat.le_of_lt hgt)] at this
          exact absurd this.symm h'.1.2
      subst hkk
      have hv : v = v' := by simpa [Memory.read] using e k
      subst hv
      have : m = m' := by
        refine ih (Memory.wfAbove_of_some h.2) (Memory.wfAbove_of_some h'.2) (fun a => ?_)
        by_cases hak : a = k
        · rw [hak, Memory.read_of_le h.2 (Nat.le_refl k), Memory.read_of_le h'.2 (Nat.le_refl k)]
        · simpa [Memory.read, hak] using e a
      rw [this]

/-! ### Wider values -/

/-- A byte outside the stored cells reads as before. -/
theorem read_writeBytes_of_ne (m : Memory) (start off backing : Nat) (v : Word) (n a : Nat)
    (h : ∀ k, k < n → a ≠ cellAddress start off backing k) :
    Memory.read (writeBytes m start off backing v n) a = Memory.read m a := by
  induction n with
  | zero => rfl
  | succ n ih =>
    rw [writeBytes, Memory.read_write_ne _ _ (h n (Nat.lt_succ_self n))]
    exact ih (fun k hk => h k (Nat.lt_succ_of_lt hk))

/-- Cells of one access do not coincide when the backing is at least as long as the access. -/
theorem cellAddress_inj {start off backing j k n : Nat} (hn : n ≤ backing) (hj : j < n) (hk : k < n)
    (h : cellAddress start off backing j = cellAddress start off backing k) : j = k := by
  unfold cellAddress at h
  have h1 : (off + j) % backing = (off + k) % backing := by omega
  have h2 : j % backing = k % backing := Nat.ModEq.add_left_cancel' off h1
  rwa [Nat.mod_eq_of_lt (by omega), Nat.mod_eq_of_lt (by omega)] at h2

/-- Byte `k` of a stored value, read back from a cell that takes no later byte. -/
theorem read_writeBytes_last (m : Memory) (start off backing : Nat) (v : Word) (n k : Nat) (hk : k < n)
    (h : ∀ j, k < j → j < n → cellAddress start off backing j ≠ cellAddress start off backing k) :
    Memory.read (writeBytes m start off backing v n) (cellAddress start off backing k) =
      v.extractLsb' (8 * k) 8 := by
  induction n with
  | zero => omega
  | succ n ih =>
    by_cases hkn : k = n
    · subst hkn; simp [writeBytes]
    · rw [writeBytes, Memory.read_write_ne _ _ (h n (by omega) (by omega)).symm]
      exact ih (by omega) (fun j h1 h2 => h j h1 (by omega))

/-- Byte `k` of a stored value, read back. -/
theorem read_writeBytes_cell (m : Memory) (start off backing : Nat) (v : Word) (n k : Nat) (hn : n ≤ backing)
    (hk : k < n) :
    Memory.read (writeBytes m start off backing v n) (cellAddress start off backing k) =
      v.extractLsb' (8 * k) 8 :=
  read_writeBytes_last m start off backing v n k hk fun _ h1 h2 e => Nat.ne_of_gt h1 (cellAddress_inj hn h2 hk e)

/-- Bit `i` of a value of `n` bytes (20_memory.md R106). -/
theorem getLsbD_readBytes (m : Memory) (start off backing n i : Nat) (hn : n ≤ 4) :
    (readBytes m start off backing n).getLsbD i =
      (decide (i < 8 * n) && (Memory.read m (cellAddress start off backing (i / 8))).getLsbD (i % 8)) := by
  induction n with
  | zero => simp [readBytes]
  | succ n ih =>
    rw [readBytes, BitVec.getLsbD_or, ih (by omega), BitVec.getLsbD_shiftLeft, BitVec.getLsbD_setWidth]
    by_cases h1 : i < 8 * n
    · simp [h1, show i < 8 * (n + 1) by omega]
    · by_cases h2 : i < 8 * (n + 1)
      · have hd : i / 8 = n := by omega
        have hm : i % 8 = i - 8 * n := by omega
        simp [h1, h2, hd, hm, show i < 32 by omega, show i - 8 * n < 32 by omega]
      · have hb : (Memory.read m (cellAddress start off backing n)).getLsbD (i - 8 * n) = false :=
          BitVec.getLsbD_of_ge _ _ (by omega)
        simp [h1, h2, hb]

end Sys2Proof.Machine
end

