-- ==== Sys2Proof/Laws/Bus.lean ====
section
/-! SUPPORT. What the bus operations can do, each said once (spec/20_memory.md): the regions of a table, the requests, and
the values of an access. -/

namespace Sys2Proof.Machine

open Sys2Proof

/-! ### Regions (R96 to R99) -/

/-- A table of regions that do not overlap, taken apart. -/
theorem regionsWf_cons {g : Region} {rest : List Region} (h : regionsWf (g :: rest) = true) :
    (∀ x ∈ rest, x.start + x.size ≤ g.start) ∧ regionsWf rest = true := by
  simp only [regionsWf, Bool.and_eq_true, List.all_eq_true, decide_eq_true_eq] at h
  exact ⟨h.1.2, h.2⟩

/-- At most one region holds an address (R99). -/
theorem region_unique {m : Nat} : ∀ {l : List Region}, regionsWf l = true → ∀ g ∈ l, ∀ x ∈ l,
    g.start ≤ m → m < g.start + g.size → x.start ≤ m → m < x.start + x.size → g = x
  | [], _, g, hg, _, _ => by cases hg
  | a :: l, hw, g, hg, x, hx => by
    obtain ⟨h1, h2⟩ := regionsWf_cons hw
    intro a1 a2 a3 a4
    rcases List.mem_cons.mp hg with rfl | hg' <;> rcases List.mem_cons.mp hx with rfl | hx'
    · rfl
    · have := h1 x hx'; omega
    · have := h1 g hg'; omega
    · exact region_unique h2 g hg' x hx' a1 a2 a3 a4

/-- The region found is one of the table's and holds the address. -/
theorem resolve_mem {l : List Region} {m : Nat} {g : Region} (h : resolve l m = some g) :
    g ∈ l ∧ g.start ≤ m ∧ m < g.start + g.size := by
  have h1 := List.find?_some h
  simp only [Region.holds, decide_eq_true_eq] at h1
  exact ⟨List.mem_of_find?_eq_some h, h1⟩

/-! ### Requests (R100) -/

/-- An access that reaches storage: its region, and the checks passed. -/
theorem busTarget_storage {c : Config} {dir : Direction} {n : Width} {addr : Word} {start off backing : Nat}
    (h : busTarget c dir n addr = .ok (.storage start off backing)) :
    ∃ g, resolve c.regions (maskAddress addr) = some g ∧ permits g.capability dir = true ∧
      g.kind = .storage backing ∧ g.start = start ∧ maskAddress addr - g.start = off ∧ off + n.bytes ≤ g.size := by
  unfold busTarget at h
  split at h
  · cases h
  · rename_i g hg
    split at h
    · rename_i hp
      split at h
      · cases h
      · rename_i hs
        split at h <;> cases h
        rename_i hk
        exact ⟨g, hg, hp, hk, rfl, rfl, Nat.not_lt.mp hs⟩
    · cases h

/-- A device request changes the schedule, the record and the free counter only. -/
theorem deviceRequest_effect {q : DeviceRequest} {s u : State} {v : Word} (h : deviceRequest q s = .ok (v, u)) :
    ∃ a f, u = { s with deviceAnswers := a, deviceRequests := s.deviceRequests ++ [q], freeIndex := f } := by
  unfold deviceRequest at h
  split at h
  · split at h
    · simp only [Except.ok.injEq, Prod.mk.injEq] at h; exact ⟨s.deviceAnswers, _, h.2.symm⟩
    · cases h
  · simp only [Except.ok.injEq, Prod.mk.injEq] at h; exact ⟨_, s.freeIndex, h.2.symm⟩
  · cases h

/-- A read changes the schedule, the record and the free counter only. -/
theorem busRead_effect {n : Width} {a v : Word} {s u : State} (h : busRead n a s = .ok (v, u)) :
    ∃ da f r, u = { s with deviceAnswers := da, deviceRequests := s.deviceRequests ++ r, freeIndex := f } := by
  unfold busRead at h
  split at h
  · cases h
  · simp only [Except.ok.injEq, Prod.mk.injEq] at h
    exact ⟨s.deviceAnswers, s.freeIndex, [], by rw [← h.2]; simp⟩
  · split at h
    · cases h
    · rename_i hd
      simp only [Except.ok.injEq, Prod.mk.injEq] at h
      obtain ⟨a, f, e⟩ := deviceRequest_effect hd
      exact ⟨a, f, _, h.2 ▸ e⟩

/-- A read of storage. -/
theorem busRead_storage {n : Width} {a : Word} {s : State} {start off backing : Nat}
    (h : busTarget s.config .read n a = .ok (.storage start off backing)) :
    busRead n a s = .ok (readBytes s.mem start off backing n.bytes, s) := by simp only [busRead, h]

/-- A write of storage. -/
theorem busWrite_storage {n : Width} {a v : Word} {s : State} {start off backing : Nat}
    (h : busTarget s.config .write n a = .ok (.storage start off backing)) :
    busWrite n a v s = .ok { s with mem := writeBytes s.mem start off backing v n.bytes } := by
  simp only [busWrite, h]

/-- A write changes the cells of its access, or, at a device, the schedule, the record and the free counter. -/
theorem busWrite_effect {n : Width} {a v : Word} {s u : State} (h : busWrite n a v s = .ok u) :
    ∃ m da f r,
      u = { s with mem := m, deviceAnswers := da, deviceRequests := s.deviceRequests ++ r, freeIndex := f } ∧
      (m = s.mem ∨ ∃ start off backing, busTarget s.config .write n a = .ok (.storage start off backing) ∧
        m = writeBytes s.mem start off backing v n.bytes) := by
  unfold busWrite at h
  split at h
  · cases h
  · rename_i ht
    simp only [Except.ok.injEq] at h
    exact ⟨_, s.deviceAnswers, s.freeIndex, [], by rw [← h]; simp, .inr ⟨_, _, _, ht, rfl⟩⟩
  · split at h
    · cases h
    · rename_i hd
      simp only [Except.ok.injEq] at h
      obtain ⟨a, f, e⟩ := deviceRequest_effect hd
      exact ⟨_, a, f, _, h ▸ e, .inl rfl⟩

/-- A completed write keeps the memory canonical. -/
theorem busWrite_wf {n : Width} {a v : Word} {s u : State} (h : busWrite n a v s = .ok u)
    (hm : Memory.wf s.mem = true) : Memory.wf u.mem = true := by
  obtain ⟨m, da, f, r, rfl, rfl | ⟨start, off, backing, _, rfl⟩⟩ := busWrite_effect h
  · exact hm
  · exact writeBytes_wf _ _ _ _ _ _ hm

/-! ### The values of an access (R106, R111) -/

/-- The bytes read are the stored value. -/
theorem readBytes_stored (m : Memory) (start off backing : Nat) (n : Width) :
    readBytes m start off backing n.bytes = storedValue m start off backing n := by
  apply BitVec.eq_of_getLsbD_eq; intro i hi
  rw [getLsbD_readBytes _ _ _ _ _ _ (by cases n <;> decide)]
  cases n
  · simp only [Width.bytes, storedValue, BitVec.getLsbD_setWidth, hi, decide_true, Bool.true_and]
    by_cases h : i < 8
    · simp [h, show i / 8 = 0 by omega, show i % 8 = i by omega]
    · rw [BitVec.getLsbD_of_ge (Memory.read m (cellAddress start off backing 0)) i (by omega)]; simp [h]
  · simp only [Width.bytes, storedValue, BitVec.getLsbD_setWidth, hi, decide_true, Bool.true_and]
    rw [show (halfOfBytes (Memory.read m (cellAddress start off backing 0))
      (Memory.read m (cellAddress start off backing 1))).getLsbD i = _ from BitVec.getLsbD_append]
    by_cases h : i < 8
    · simp [h, show i < 16 by omega, show i / 8 = 0 by omega, show i % 8 = i by omega]
    · by_cases h2 : i < 16
      · simp [h, h2, show i / 8 = 1 by omega, show i % 8 = i - 8 by omega]
      · rw [BitVec.getLsbD_of_ge (Memory.read m (cellAddress start off backing 1)) _ (by omega)]; simp [h, h2]
  · simp only [Width.bytes, storedValue]
    refine Eq.trans ?_ (BitVec.getLsbD_append (i := i)).symm
    unfold halfOfBytes
    rw [show (Memory.read m (cellAddress start off backing 1) ++
        Memory.read m (cellAddress start off backing 0)).getLsbD i = _ from BitVec.getLsbD_append,
      show (Memory.read m (cellAddress start off backing 3) ++
        Memory.read m (cellAddress start off backing 2)).getLsbD (i - 16) = _ from BitVec.getLsbD_append]
    have : i / 8 = 0 ∨ i / 8 = 1 ∨ i / 8 = 2 ∨ i / 8 = 3 := by omega
    rcases this with h | h | h | h <;> rw [h]
    · simp [hi, show i < 8 by omega, show i < 16 by omega, show i % 8 = i by omega]
    · simp [hi, show ¬ i < 8 by omega, show i < 16 by omega, show i % 8 = i - 8 by omega]
    · simp [hi, show ¬ i < 16 by omega, show i - 16 < 8 by omega, show i % 8 = i - 16 by omega]
    · simp [show ¬ i < 16 by omega, show ¬ i - 16 < 8 by omega, show i % 8 = i - 16 - 8 by omega, hi]

/-- A value read has no bit above its width. -/
theorem busRead_bound {n : Width} {a v : Word} {s u : State} (h : busRead n a s = .ok (v, u)) :
    v.toNat < 2 ^ (8 * n.bytes) := by
  have hb : ∀ i, 8 * n.bytes ≤ i → v.getLsbD i = false := by
    intro i hi
    unfold busRead at h
    split at h
    · cases h
    · simp only [Except.ok.injEq, Prod.mk.injEq] at h
      rw [← h.1, getLsbD_readBytes _ _ _ _ _ _ (by cases n <;> decide)]; simp; omega
    · split at h
      · cases h
      · simp only [Except.ok.injEq, Prod.mk.injEq] at h
        rw [← h.1]
        cases n
        · simp only [lowBytes, zext, BitVec.getLsbD_setWidth]
          rw [BitVec.getLsbD_of_ge _ _ (by simpa [Width.bytes] using hi)]; simp
        · simp only [lowBytes, zext, BitVec.getLsbD_setWidth]
          rw [BitVec.getLsbD_of_ge _ _ (by simpa [Width.bytes] using hi)]; simp
        · exact BitVec.getLsbD_of_ge _ _ (by simpa [Width.bytes] using hi)
  apply Nat.lt_pow_two_of_testBit
  intro i hi; exact hb i hi

/-- A cell outside the access reads as before. -/
theorem read_writeBytes_outside {m : Memory} {start off backing : Nat} {v : Word} {n : Width} {a : Nat}
    (h : a ∉ accessCells start off backing n) :
    Memory.read (writeBytes m start off backing v n.bytes) a = Memory.read m a := by
  apply read_writeBytes_of_ne
  intro k hk e
  apply h
  simp only [accessCells, List.mem_map, List.mem_range]
  exact ⟨k, hk, e.symm⟩

end Sys2Proof.Machine
end

