-- ==== Sys2Proof/Laws/State.lean ====
section
/-! SUPPORT. One lemma per field per state update, so that no later proof unfolds a record update, and the reads of a
general register after each. -/

namespace Sys2Proof.Machine

open Sys2Proof

/-! ### `State.setReg` -/

@[simp] theorem State.setReg_config (s : State) (r : Reg) (v : Word) : (s.setReg r v).config = s.config := by unfold State.setReg; split <;> rfl
@[simp] theorem State.setReg_pc (s : State) (r : Reg) (v : Word) : (s.setReg r v).pc = s.pc := by unfold State.setReg; split <;> rfl
@[simp] theorem State.setReg_psw (s : State) (r : Reg) (v : Word) : (s.setReg r v).psw = s.psw := by unfold State.setReg; split <;> rfl
@[simp] theorem State.setReg_eipc (s : State) (r : Reg) (v : Word) : (s.setReg r v).eipc = s.eipc := by unfold State.setReg; split <;> rfl
@[simp] theorem State.setReg_eipsw (s : State) (r : Reg) (v : Word) : (s.setReg r v).eipsw = s.eipsw := by unfold State.setReg; split <;> rfl
@[simp] theorem State.setReg_fepc (s : State) (r : Reg) (v : Word) : (s.setReg r v).fepc = s.fepc := by unfold State.setReg; split <;> rfl
@[simp] theorem State.setReg_fepsw (s : State) (r : Reg) (v : Word) : (s.setReg r v).fepsw = s.fepsw := by unfold State.setReg; split <;> rfl
@[simp] theorem State.setReg_ecr (s : State) (r : Reg) (v : Word) : (s.setReg r v).ecr = s.ecr := by unfold State.setReg; split <;> rfl
@[simp] theorem State.setReg_chcw (s : State) (r : Reg) (v : Word) : (s.setReg r v).chcw = s.chcw := by unfold State.setReg; split <;> rfl
@[simp] theorem State.setReg_adtre (s : State) (r : Reg) (v : Word) : (s.setReg r v).adtre = s.adtre := by unfold State.setReg; split <;> rfl
@[simp] theorem State.setReg_pending (s : State) (r : Reg) (v : Word) : (s.setReg r v).pending = s.pending := by unfold State.setReg; split <;> rfl
@[simp] theorem State.setReg_halted (s : State) (r : Reg) (v : Word) : (s.setReg r v).halted = s.halted := by unfold State.setReg; split <;> rfl
@[simp] theorem State.setReg_fatal (s : State) (r : Reg) (v : Word) : (s.setReg r v).fatal = s.fatal := by unfold State.setReg; split <;> rfl
@[simp] theorem State.setReg_mem (s : State) (r : Reg) (v : Word) : (s.setReg r v).mem = s.mem := by unfold State.setReg; split <;> rfl
@[simp] theorem State.setReg_offers (s : State) (r : Reg) (v : Word) : (s.setReg r v).offers = s.offers := by unfold State.setReg; split <;> rfl
@[simp] theorem State.setReg_deviceAnswers (s : State) (r : Reg) (v : Word) : (s.setReg r v).deviceAnswers = s.deviceAnswers := by unfold State.setReg; split <;> rfl
@[simp] theorem State.setReg_deviceRequests (s : State) (r : Reg) (v : Word) : (s.setReg r v).deviceRequests = s.deviceRequests := by unfold State.setReg; split <;> rfl
@[simp] theorem State.setReg_freeIndex (s : State) (r : Reg) (v : Word) : (s.setReg r v).freeIndex = s.freeIndex := by unfold State.setReg; split <;> rfl
@[simp] theorem State.setReg_cycles (s : State) (r : Reg) (v : Word) : (s.setReg r v).cycles = s.cycles := by unfold State.setReg; split <;> rfl

/-! ### `State.setPc` -/

@[simp] theorem State.setPc_config (s : State) (v : Word) : (s.setPc v).config = s.config := rfl
@[simp] theorem State.setPc_regs (s : State) (v : Word) : (s.setPc v).regs = s.regs := rfl
@[simp] theorem State.setPc_psw (s : State) (v : Word) : (s.setPc v).psw = s.psw := rfl
@[simp] theorem State.setPc_eipc (s : State) (v : Word) : (s.setPc v).eipc = s.eipc := rfl
@[simp] theorem State.setPc_eipsw (s : State) (v : Word) : (s.setPc v).eipsw = s.eipsw := rfl
@[simp] theorem State.setPc_fepc (s : State) (v : Word) : (s.setPc v).fepc = s.fepc := rfl
@[simp] theorem State.setPc_fepsw (s : State) (v : Word) : (s.setPc v).fepsw = s.fepsw := rfl
@[simp] theorem State.setPc_ecr (s : State) (v : Word) : (s.setPc v).ecr = s.ecr := rfl
@[simp] theorem State.setPc_chcw (s : State) (v : Word) : (s.setPc v).chcw = s.chcw := rfl
@[simp] theorem State.setPc_adtre (s : State) (v : Word) : (s.setPc v).adtre = s.adtre := rfl
@[simp] theorem State.setPc_pending (s : State) (v : Word) : (s.setPc v).pending = s.pending := rfl
@[simp] theorem State.setPc_halted (s : State) (v : Word) : (s.setPc v).halted = s.halted := rfl
@[simp] theorem State.setPc_fatal (s : State) (v : Word) : (s.setPc v).fatal = s.fatal := rfl
@[simp] theorem State.setPc_mem (s : State) (v : Word) : (s.setPc v).mem = s.mem := rfl
@[simp] theorem State.setPc_offers (s : State) (v : Word) : (s.setPc v).offers = s.offers := rfl
@[simp] theorem State.setPc_deviceAnswers (s : State) (v : Word) : (s.setPc v).deviceAnswers = s.deviceAnswers := rfl
@[simp] theorem State.setPc_deviceRequests (s : State) (v : Word) : (s.setPc v).deviceRequests = s.deviceRequests := rfl
@[simp] theorem State.setPc_freeIndex (s : State) (v : Word) : (s.setPc v).freeIndex = s.freeIndex := rfl
@[simp] theorem State.setPc_cycles (s : State) (v : Word) : (s.setPc v).cycles = s.cycles := rfl
@[simp] theorem State.setPc_pc (s : State) (v : Word) : (s.setPc v).pc = v &&& 0xFFFFFFFE#32 := rfl
@[simp] theorem State.setPc_reg (s : State) (v : Word) (q : Reg) : (s.setPc v).reg q = s.reg q := rfl

/-! ### `State.setPsw` -/

@[simp] theorem State.setPsw_config (s : State) (p : Word) : (s.setPsw p).config = s.config := rfl
@[simp] theorem State.setPsw_regs (s : State) (p : Word) : (s.setPsw p).regs = s.regs := rfl
@[simp] theorem State.setPsw_pc (s : State) (p : Word) : (s.setPsw p).pc = s.pc := rfl
@[simp] theorem State.setPsw_eipc (s : State) (p : Word) : (s.setPsw p).eipc = s.eipc := rfl
@[simp] theorem State.setPsw_eipsw (s : State) (p : Word) : (s.setPsw p).eipsw = s.eipsw := rfl
@[simp] theorem State.setPsw_fepc (s : State) (p : Word) : (s.setPsw p).fepc = s.fepc := rfl
@[simp] theorem State.setPsw_fepsw (s : State) (p : Word) : (s.setPsw p).fepsw = s.fepsw := rfl
@[simp] theorem State.setPsw_ecr (s : State) (p : Word) : (s.setPsw p).ecr = s.ecr := rfl
@[simp] theorem State.setPsw_chcw (s : State) (p : Word) : (s.setPsw p).chcw = s.chcw := rfl
@[simp] theorem State.setPsw_adtre (s : State) (p : Word) : (s.setPsw p).adtre = s.adtre := rfl
@[simp] theorem State.setPsw_pending (s : State) (p : Word) : (s.setPsw p).pending = s.pending := rfl
@[simp] theorem State.setPsw_halted (s : State) (p : Word) : (s.setPsw p).halted = s.halted := rfl
@[simp] theorem State.setPsw_fatal (s : State) (p : Word) : (s.setPsw p).fatal = s.fatal := rfl
@[simp] theorem State.setPsw_mem (s : State) (p : Word) : (s.setPsw p).mem = s.mem := rfl
@[simp] theorem State.setPsw_offers (s : State) (p : Word) : (s.setPsw p).offers = s.offers := rfl
@[simp] theorem State.setPsw_deviceAnswers (s : State) (p : Word) : (s.setPsw p).deviceAnswers = s.deviceAnswers := rfl
@[simp] theorem State.setPsw_deviceRequests (s : State) (p : Word) : (s.setPsw p).deviceRequests = s.deviceRequests := rfl
@[simp] theorem State.setPsw_freeIndex (s : State) (p : Word) : (s.setPsw p).freeIndex = s.freeIndex := rfl
@[simp] theorem State.setPsw_cycles (s : State) (p : Word) : (s.setPsw p).cycles = s.cycles := rfl
@[simp] theorem State.setPsw_psw (s : State) (p : Word) : (s.setPsw p).psw = p := rfl
@[simp] theorem State.setPsw_reg (s : State) (p : Word) (q : Reg) : (s.setPsw p).reg q = s.reg q := rfl

/-! ### `State.setCycles` -/

@[simp] theorem State.setCycles_config (s : State) (n : Nat) : (s.setCycles n).config = s.config := rfl
@[simp] theorem State.setCycles_regs (s : State) (n : Nat) : (s.setCycles n).regs = s.regs := rfl
@[simp] theorem State.setCycles_pc (s : State) (n : Nat) : (s.setCycles n).pc = s.pc := rfl
@[simp] theorem State.setCycles_psw (s : State) (n : Nat) : (s.setCycles n).psw = s.psw := rfl
@[simp] theorem State.setCycles_eipc (s : State) (n : Nat) : (s.setCycles n).eipc = s.eipc := rfl
@[simp] theorem State.setCycles_eipsw (s : State) (n : Nat) : (s.setCycles n).eipsw = s.eipsw := rfl
@[simp] theorem State.setCycles_fepc (s : State) (n : Nat) : (s.setCycles n).fepc = s.fepc := rfl
@[simp] theorem State.setCycles_fepsw (s : State) (n : Nat) : (s.setCycles n).fepsw = s.fepsw := rfl
@[simp] theorem State.setCycles_ecr (s : State) (n : Nat) : (s.setCycles n).ecr = s.ecr := rfl
@[simp] theorem State.setCycles_chcw (s : State) (n : Nat) : (s.setCycles n).chcw = s.chcw := rfl
@[simp] theorem State.setCycles_adtre (s : State) (n : Nat) : (s.setCycles n).adtre = s.adtre := rfl
@[simp] theorem State.setCycles_pending (s : State) (n : Nat) : (s.setCycles n).pending = s.pending := rfl
@[simp] theorem State.setCycles_halted (s : State) (n : Nat) : (s.setCycles n).halted = s.halted := rfl
@[simp] theorem State.setCycles_fatal (s : State) (n : Nat) : (s.setCycles n).fatal = s.fatal := rfl
@[simp] theorem State.setCycles_mem (s : State) (n : Nat) : (s.setCycles n).mem = s.mem := rfl
@[simp] theorem State.setCycles_offers (s : State) (n : Nat) : (s.setCycles n).offers = s.offers := rfl
@[simp] theorem State.setCycles_deviceAnswers (s : State) (n : Nat) : (s.setCycles n).deviceAnswers = s.deviceAnswers := rfl
@[simp] theorem State.setCycles_deviceRequests (s : State) (n : Nat) : (s.setCycles n).deviceRequests = s.deviceRequests := rfl
@[simp] theorem State.setCycles_freeIndex (s : State) (n : Nat) : (s.setCycles n).freeIndex = s.freeIndex := rfl
@[simp] theorem State.setCycles_cycles (s : State) (n : Nat) : (s.setCycles n).cycles = n := rfl
@[simp] theorem State.setCycles_reg (s : State) (n : Nat) (q : Reg) : (s.setCycles n).reg q = s.reg q := rfl

/-! ### `State.retire` -/

@[simp] theorem State.retire_config (s : State) (l : Word) (n : Nat) : (s.retire l n).config = s.config := rfl
@[simp] theorem State.retire_regs (s : State) (l : Word) (n : Nat) : (s.retire l n).regs = s.regs := rfl
@[simp] theorem State.retire_psw (s : State) (l : Word) (n : Nat) : (s.retire l n).psw = s.psw := rfl
@[simp] theorem State.retire_eipc (s : State) (l : Word) (n : Nat) : (s.retire l n).eipc = s.eipc := rfl
@[simp] theorem State.retire_eipsw (s : State) (l : Word) (n : Nat) : (s.retire l n).eipsw = s.eipsw := rfl
@[simp] theorem State.retire_fepc (s : State) (l : Word) (n : Nat) : (s.retire l n).fepc = s.fepc := rfl
@[simp] theorem State.retire_fepsw (s : State) (l : Word) (n : Nat) : (s.retire l n).fepsw = s.fepsw := rfl
@[simp] theorem State.retire_ecr (s : State) (l : Word) (n : Nat) : (s.retire l n).ecr = s.ecr := rfl
@[simp] theorem State.retire_chcw (s : State) (l : Word) (n : Nat) : (s.retire l n).chcw = s.chcw := rfl
@[simp] theorem State.retire_adtre (s : State) (l : Word) (n : Nat) : (s.retire l n).adtre = s.adtre := rfl
@[simp] theorem State.retire_pending (s : State) (l : Word) (n : Nat) : (s.retire l n).pending = s.pending := rfl
@[simp] theorem State.retire_halted (s : State) (l : Word) (n : Nat) : (s.retire l n).halted = s.halted := rfl
@[simp] theorem State.retire_fatal (s : State) (l : Word) (n : Nat) : (s.retire l n).fatal = s.fatal := rfl
@[simp] theorem State.retire_mem (s : State) (l : Word) (n : Nat) : (s.retire l n).mem = s.mem := rfl
@[simp] theorem State.retire_offers (s : State) (l : Word) (n : Nat) : (s.retire l n).offers = s.offers := rfl
@[simp] theorem State.retire_deviceAnswers (s : State) (l : Word) (n : Nat) : (s.retire l n).deviceAnswers = s.deviceAnswers := rfl
@[simp] theorem State.retire_deviceRequests (s : State) (l : Word) (n : Nat) : (s.retire l n).deviceRequests = s.deviceRequests := rfl
@[simp] theorem State.retire_freeIndex (s : State) (l : Word) (n : Nat) : (s.retire l n).freeIndex = s.freeIndex := rfl
@[simp] theorem State.retire_pc (s : State) (l : Word) (n : Nat) : (s.retire l n).pc = (s.pc + l) &&& 0xFFFFFFFE#32 := rfl
@[simp] theorem State.retire_cycles (s : State) (l : Word) (n : Nat) : (s.retire l n).cycles = n := rfl
@[simp] theorem State.retire_reg (s : State) (l : Word) (n : Nat) (q : Reg) : (s.retire l n).reg q = s.reg q := rfl

/-! ### `State.request` -/

@[simp] theorem State.request_config (s : State) (t : IntType) : (s.request t).config = s.config := rfl
@[simp] theorem State.request_regs (s : State) (t : IntType) : (s.request t).regs = s.regs := rfl
@[simp] theorem State.request_pc (s : State) (t : IntType) : (s.request t).pc = s.pc := rfl
@[simp] theorem State.request_psw (s : State) (t : IntType) : (s.request t).psw = s.psw := rfl
@[simp] theorem State.request_eipc (s : State) (t : IntType) : (s.request t).eipc = s.eipc := rfl
@[simp] theorem State.request_eipsw (s : State) (t : IntType) : (s.request t).eipsw = s.eipsw := rfl
@[simp] theorem State.request_fepc (s : State) (t : IntType) : (s.request t).fepc = s.fepc := rfl
@[simp] theorem State.request_fepsw (s : State) (t : IntType) : (s.request t).fepsw = s.fepsw := rfl
@[simp] theorem State.request_ecr (s : State) (t : IntType) : (s.request t).ecr = s.ecr := rfl
@[simp] theorem State.request_chcw (s : State) (t : IntType) : (s.request t).chcw = s.chcw := rfl
@[simp] theorem State.request_adtre (s : State) (t : IntType) : (s.request t).adtre = s.adtre := rfl
@[simp] theorem State.request_halted (s : State) (t : IntType) : (s.request t).halted = s.halted := rfl
@[simp] theorem State.request_fatal (s : State) (t : IntType) : (s.request t).fatal = s.fatal := rfl
@[simp] theorem State.request_mem (s : State) (t : IntType) : (s.request t).mem = s.mem := rfl
@[simp] theorem State.request_offers (s : State) (t : IntType) : (s.request t).offers = s.offers := rfl
@[simp] theorem State.request_deviceAnswers (s : State) (t : IntType) : (s.request t).deviceAnswers = s.deviceAnswers := rfl
@[simp] theorem State.request_deviceRequests (s : State) (t : IntType) : (s.request t).deviceRequests = s.deviceRequests := rfl
@[simp] theorem State.request_freeIndex (s : State) (t : IntType) : (s.request t).freeIndex = s.freeIndex := rfl
@[simp] theorem State.request_cycles (s : State) (t : IntType) : (s.request t).cycles = s.cycles := rfl
@[simp] theorem State.request_pending (s : State) (t : IntType) : (s.request t).pending = addPending t s.pending := rfl
@[simp] theorem State.request_reg (s : State) (t : IntType) (q : Reg) : (s.request t).reg q = s.reg q := rfl

/-! ### General registers (10_state.md R31) -/

/-- Register 0 reads 0. -/
@[simp] theorem State.reg_zero (s : State) : s.reg 0#5 = 0#32 := by simp [State.reg]

/-- A write to register 0 is discarded. -/
@[simp] theorem State.setReg_zero (s : State) (v : Word) : s.setReg 0#5 v = s := by simp [State.setReg]

/-- What register `q` reads after a write to register `r`. -/
theorem State.setReg_reg (s : State) (r q : Reg) (v : Word) :
    (s.setReg r v).reg q = if q = r ∧ r ≠ 0#5 then v else s.reg q := by
  by_cases hr : r = 0#5
  · subst hr; simp
  · by_cases hq : q = 0#5
    · subst hq; simp [Ne.symm hr]
    · by_cases hqr : q = r
      · subst hqr; simp [State.reg, State.setReg, hr]
      · have h : r.toNat ≠ q.toNat := fun h => hqr (BitVec.eq_of_toNat_eq h.symm)
        simp [State.reg, State.setReg, hr, hq, hqr, h]

/-- The written register, where it is not register 0. -/
@[simp] theorem State.setReg_reg_same (s : State) (r : Reg) (v : Word) :
    (s.setReg r v).reg r = if r = 0#5 then 0#32 else v := by
  rw [State.setReg_reg]; by_cases h : r = 0#5 <;> simp [h]

/-- Every other register is untouched. -/
theorem State.setReg_reg_ne (s : State) {r q : Reg} (v : Word) (h : q ≠ r) : (s.setReg r v).reg q = s.reg q := by
  simp [State.setReg_reg, h]

/-- Reads of the general registers depend on the register file alone. -/
theorem State.reg_congr {s t : State} (h : t.regs = s.regs) (r : Reg) : t.reg r = s.reg r := by
  simp [State.reg, h]

end Sys2Proof.Machine
end

