-- ==== Sys2Proof/Laws/Frames.lean ====
section
/-! SUPPORT. The frames of the updates the meanings are made of, and what the flag rules (spec/10_state.md R44 to R48) say of
integers. -/

namespace Sys2Proof.Machine

open Sys2Proof

/-! ### Frames -/

/-- A frame from its parts, where memory is untouched. -/
theorem frame_intro {regs : List Reg} {flags cells : List Nat} {s t : State} (h1 : regsKept regs s t)
    (h2 : pswKept flags s t) (h : systemKept s t ∧ controlKept s t ∧ devicesKept s t ∧ t.mem = s.mem) :
    frame regs flags cells s t :=
  ⟨h1, h2, h.1, h.2.1, h.2.2.1, fun a _ => by rw [h.2.2.2]⟩

/-- One register written, no flag. -/
theorem frame_setReg_retire (s : State) (r : Reg) (v l : Word) (n : Nat) :
    frame [r] [] [] s ((s.setReg r v).retire l n) := by
  refine frame_intro (fun q hq => ?_) (fun i _ => by simp) (by simp [systemKept, controlKept, devicesKept])
  simp only [List.mem_singleton] at hq
  simp [State.setReg_reg_ne _ _ hq]

/-- The PSW and one register written. -/
theorem frame_setPsw_setReg_retire (s : State) (p : Word) (flags : List Nat) (r : Reg) (v l : Word) (n : Nat)
    (h : ∀ i, i ∉ flags → p.getLsbD i = s.psw.getLsbD i) :
    frame [r] flags [] s (((s.setPsw p).setReg r v).retire l n) := by
  refine frame_intro (fun q hq => ?_) (fun i hi => by simpa using h i hi)
    (by simp [systemKept, controlKept, devicesKept])
  simp only [List.mem_singleton] at hq
  simp [State.setReg_reg_ne _ _ hq]

/-- The PSW written, no register. -/
theorem frame_setPsw_retire (s : State) (p : Word) (flags : List Nat) (l : Word) (n : Nat)
    (h : ∀ i, i ∉ flags → p.getLsbD i = s.psw.getLsbD i) :
    frame [] flags [] s ((s.setPsw p).retire l n) :=
  frame_intro (fun q _ => by simp) (fun i hi => by simpa using h i hi) (by simp [systemKept, controlKept, devicesKept])

/-- Only `pc` and the cycle count written. -/
theorem frame_setPc_setCycles (s : State) (v : Word) (n : Nat) : frame [] [] [] s ((s.setPc v).setCycles n) :=
  frame_intro (fun q _ => by simp) (fun i _ => by simp) (by simp [systemKept, controlKept, devicesKept])

/-! ### Bits of the flag rules -/

/-- Bit 31 is the sign. -/
theorem getLsbD_31_iff (r : Word) : r.getLsbD 31 = true ↔ r.toInt < 0 := by
  rw [BitVec.toInt_neg_iff, BitVec.getLsbD, Nat.testBit_eq_decide_div_mod_eq]
  have := r.isLt
  simp only [decide_eq_true_eq]
  omega

/-- The bits of the PSW after an addition. -/
theorem getLsbD_setAddFlags (p a b : Word) (i : Nat) :
    (setAddFlags p a b).getLsbD i =
      if i = 0 then decide (a + b = 0#32) else if i = 1 then (a + b).getLsbD 31
      else if i = 2 then ((a ^^^ (a + b)) &&& (b ^^^ (a + b))).getLsbD 31
      else if i = 3 then decide (2 ^ 32 ≤ a.toNat + b.toNat) else p.getLsbD i := by
  have h1 : (a.setWidth 33 + b.setWidth 33 : BitVec 33).setWidth 32 = a + b := by
    apply BitVec.eq_of_toNat_eq
    have := a.isLt
    have := b.isLt
    simp only [BitVec.toNat_setWidth, BitVec.toNat_add]
    omega
  have h2 : (a.setWidth 33 + b.setWidth 33 : BitVec 33).getLsbD 32 = decide (2 ^ 32 ≤ a.toNat + b.toNat) := by
    have := a.isLt
    have := b.isLt
    rw [BitVec.getLsbD, Nat.testBit_eq_decide_div_mod_eq, decide_eq_decide]
    simp only [BitVec.toNat_setWidth, BitVec.toNat_add]
    omega
  unfold setAddFlags
  simp only [h1, h2, getLsbD_setZeroSignOverflowCarry]

/-- The bits of the PSW after a subtraction. -/
theorem getLsbD_setSubFlags (p a b : Word) (i : Nat) :
    (setSubFlags p a b).getLsbD i =
      if i = 0 then decide (a - b = 0#32) else if i = 1 then (a - b).getLsbD 31
      else if i = 2 then ((a ^^^ b) &&& (a ^^^ (a - b))).getLsbD 31
      else if i = 3 then decide (a.toNat < b.toNat) else p.getLsbD i := by
  have h1 : (a.setWidth 33 - b.setWidth 33 : BitVec 33).setWidth 32 = a - b := by
    apply BitVec.eq_of_toNat_eq
    have := a.isLt
    have := b.isLt
    simp only [BitVec.toNat_setWidth, BitVec.toNat_sub]
    omega
  have h2 : (a.setWidth 33 - b.setWidth 33 : BitVec 33).getLsbD 32 = decide (a.toNat < b.toNat) := by
    have := a.isLt
    have := b.isLt
    rw [BitVec.getLsbD, Nat.testBit_eq_decide_div_mod_eq, decide_eq_decide]
    simp only [BitVec.toNat_setWidth, BitVec.toNat_sub]
    omega
  unfold setSubFlags
  simp only [h1, h2, getLsbD_setZeroSignOverflowCarry]

/-- The overflow bit of an addition is signed overflow. -/
theorem add_overflow_iff (a b : Word) :
    ((a ^^^ (a + b)) &&& (b ^^^ (a + b))).getLsbD 31 = true ↔
      (a.toInt + b.toInt < -2 ^ 31 ∨ 2 ^ 31 ≤ a.toInt + b.toInt) := by
  rw [BitVec.getLsbD_and, BitVec.getLsbD_xor, BitVec.getLsbD_xor]
  have ha := getLsbD_31_iff a
  have hb := getLsbD_31_iff b
  have hr := getLsbD_31_iff (a + b)
  have e : (a + b).toInt = (a.toInt + b.toInt).bmod (2 ^ 32) := BitVec.toInt_add a b
  have := BitVec.toInt_lt (x := a)
  have := BitVec.toInt_lt (x := b)
  have := BitVec.le_toInt (x := a)
  have := BitVec.le_toInt (x := b)
  rw [Int.bmod_def] at e
  rcases Bool.eq_false_or_eq_true (a.getLsbD 31) with h1 | h1 <;>
    rcases Bool.eq_false_or_eq_true (b.getLsbD 31) with h2 | h2 <;>
    rcases Bool.eq_false_or_eq_true ((a + b).getLsbD 31) with h3 | h3 <;>
    simp only [h1, h2, h3, true_iff, false_iff, Bool.false_eq_true] at ha hb hr <;>
    simp only [h1, h2, h3] <;> simp <;> split at e <;> omega

/-- The overflow bit of a subtraction is signed overflow. -/
theorem sub_overflow_iff (a b : Word) :
    ((a ^^^ b) &&& (a ^^^ (a - b))).getLsbD 31 = true ↔
      (a.toInt - b.toInt < -2 ^ 31 ∨ 2 ^ 31 ≤ a.toInt - b.toInt) := by
  rw [BitVec.getLsbD_and, BitVec.getLsbD_xor, BitVec.getLsbD_xor]
  have ha := getLsbD_31_iff a
  have hb := getLsbD_31_iff b
  have hr := getLsbD_31_iff (a - b)
  have e : (a - b).toInt = (a.toInt - b.toInt).bmod (2 ^ 32) := BitVec.toInt_sub
  have := BitVec.toInt_lt (x := a)
  have := BitVec.toInt_lt (x := b)
  have := BitVec.le_toInt (x := a)
  have := BitVec.le_toInt (x := b)
  rw [Int.bmod_def] at e
  rcases Bool.eq_false_or_eq_true (a.getLsbD 31) with h1 | h1 <;>
    rcases Bool.eq_false_or_eq_true (b.getLsbD 31) with h2 | h2 <;>
    rcases Bool.eq_false_or_eq_true ((a - b).getLsbD 31) with h3 | h3 <;>
    simp only [h1, h2, h3, true_iff, false_iff, Bool.false_eq_true] at ha hb hr <;>
    simp only [h1, h2, h3] <;> simp <;> split at e <;> omega

end Sys2Proof.Machine
end

