-- ==== Sys2Proof/Laws/Interrupts.lean ====
section
/-! SUPPORT. What the operations of spec/60_exceptions.md can do, each said once: the set of pending requests, the choice of
one, the entry, the return and the steps of the tick. -/

namespace Sys2Proof.Machine

open Sys2Proof

/-! ### The pending requests (R511, R512) -/

/-- The order of the types is strict. -/
theorem rank_inj {t u : IntType} (h : IntType.rank t = IntType.rank u) : t = u := by
  cases t with
  | trap a =>
    cases u with
    | trap b => exact congrArg _ (BitVec.eq_of_toNat_eq (by simp only [IntType.rank] at h; omega))
    | int b => simp only [IntType.rank] at h; have := a.isLt; omega
    | _ => simp only [IntType.rank] at h; omega
  | int a =>
    cases u with
    | int b =>
      exact congrArg _ (BitVec.eq_of_toNat_eq (by
        simp only [IntType.rank] at h; have := a.isLt; have := b.isLt; omega))
    | trap b => simp only [IntType.rank] at h; have := b.isLt; omega
    | _ => simp only [IntType.rank] at h; omega
  | _ => cases u <;> simp only [IntType.rank] at h <;> first | rfl | omega

/-- The requests after one is added. -/
theorem mem_addPending (t u : IntType) (p : List IntType) : u ∈ addPending t p ↔ u = t ∨ u ∈ p := by
  induction p with
  | nil => simp [addPending]
  | cons a p ih =>
    simp only [addPending]
    split
    · simp
    · split
      · rename_i h; subst h; simp
      · simp only [List.mem_cons, ih]; tauto

/-- The lines offered join the requests pending (R511). -/
theorem mem_mergeOffered (t : IntType) (offered : List Line) (s : State) :
    t ∈ (mergeOffered offered s).pending ↔ t ∈ s.pending ∨ ∃ l ∈ offered, Line.type l = t := by
  simp only [mergeOffered]
  generalize s.pending = p
  induction offered generalizing p with
  | nil => simp
  | cons a off ih =>
    simp only [List.foldl_cons, ih, mem_addPending, List.exists_mem_cons_iff]
    constructor <;> rintro ((h | h) | h) <;> tauto

/-- A subset of a set of requests is one. -/
theorem pendingWf_filter {p : List IntType} (f : IntType → Bool) (h : pendingWf p) : pendingWf (p.filter f) :=
  List.Pairwise.filter f h

theorem mem_removePending (t u : IntType) (p : List IntType) : u ∈ removePending t p ↔ u ∈ p ∧ u ≠ t := by
  simp [removePending]

/-! ### ECR and PSW of the entry (R521) -/

/-- A half-word extended has its own bits. -/
theorem getLsbD_zext (v : Half) (i : Nat) : (zext v).getLsbD i = v.getLsbD i := by
  unfold zext; rw [BitVec.getLsbD_setWidth]
  by_cases h : i < 32
  · simp [h]
  · rw [BitVec.getLsbD_of_ge v i (by omega)]; simp

/-- The low half of ECR replaced. -/
theorem insertField_low (v : Half) (e : Word) :
    (insertField (zext v) 0 16 e).extractLsb' 0 16 = v ∧
      (insertField (zext v) 0 16 e).extractLsb' 16 16 = e.extractLsb' 16 16 := by
  constructor <;> apply BitVec.eq_of_getLsbD_eq <;> intro i hi <;>
    simp only [BitVec.getLsbD_extractLsb', getLsbD_insertField, getLsbD_zext, hi]
  · simp [show i < 32 by omega, hi]
  · simp

/-- The high half of ECR replaced. -/
theorem insertField_high (v : Half) (e : Word) :
    (insertField (zext v) 16 16 e).extractLsb' 16 16 = v ∧
      (insertField (zext v) 16 16 e).extractLsb' 0 16 = e.extractLsb' 0 16 := by
  constructor <;> apply BitVec.eq_of_getLsbD_eq <;> intro i hi <;>
    simp only [BitVec.getLsbD_extractLsb', getLsbD_insertField, getLsbD_zext, hi]
  · simp [show 16 + i < 32 by omega, hi]
  · simp [show ¬ 16 ≤ i by omega]

/-- The level field has a bit, lies inside the word, and over no bit of another field (00_scope.md R9). -/
theorem levelFieldWf_iff {c : Config} (h : levelFieldWf c = true) :
    1 ≤ c.ilWidth ∧ c.ilLsb + c.ilWidth ≤ 32 ∧
      ∀ i, c.ilLsb ≤ i → i < c.ilLsb + c.ilWidth → (0x0000F3EF#32).getLsbD i = false := by
  simp only [levelFieldWf, Bool.and_eq_true, decide_eq_true_eq] at h
  refine ⟨h.1.1, h.1.2, fun i h1 h2 => ?_⟩
  have h3 := congrArg (fun w : Word => w.getLsbD i) h.2
  have h4 : (BitVec.ofNat 32 (2 ^ c.ilWidth - 1) <<< c.ilLsb) = fieldMask c.ilLsb c.ilWidth := rfl
  simp only [h4, BitVec.getLsbD_and, getLsbD_fieldMask,
    show (c.ilLsb ≤ i ∧ i < c.ilLsb + c.ilWidth ∧ i < 32) from ⟨h1, h2, by omega⟩] at h3
  simpa [-BitVec.getLsbD_eq_getElem] using h3

/-- The bits of the PSW the entry leaves. -/
theorem getLsbD_entryPsw {c : Config} (h : levelFieldWf c = true) (p : Word) (d : Descriptor) (i : Nat) :
    (entryPsw c p d).getLsbD i =
      if i = 12 then true
      else if c.ilLsb ≤ i ∧ i < c.ilLsb + c.ilWidth ∧ d.level.isSome then
        (BitVec.ofNat 32 (d.level.getD 0)).getLsbD (i - c.ilLsb)
      else if i = 14 ∧ d.maskable = true then true
      else if i = 15 ∧ d.maskable = false then true
      else p.getLsbD i := by
  obtain ⟨_, h2, h3⟩ := levelFieldWf_iff h
  have n12 : ¬(c.ilLsb ≤ 12 ∧ 12 < c.ilLsb + c.ilWidth) := fun ⟨a, b⟩ => by simpa using h3 12 a b
  have e : (entryPsw c p d).getLsbD i =
      if c.ilLsb ≤ i ∧ i < c.ilLsb + c.ilWidth ∧ d.level.isSome then
        (BitVec.ofNat 32 (d.level.getD 0)).getLsbD (i - c.ilLsb)
      else if i = 12 then true
      else if d.maskable = true then (if i = 14 then true else p.getLsbD i)
      else if i = 15 then true else p.getLsbD i := by
    unfold entryPsw
    rcases hl : d.level with _ | l <;> rcases hm : d.maskable with _ | _ <;>
      simp only [setInterruptLevel, getLsbD_insertField, setInterruptDisable,
        setExceptionPending, setNMIPending, getLsbD_setBit, if_true, Option.isSome_some, Option.isSome_none,
        Option.getD_some, and_true, Bool.false_eq_true, if_false, and_false] <;>
      split_ifs <;> first | rfl | omega
  rw [e]
  by_cases h12 : i = 12
  · subst h12; rw [if_neg (fun hh => n12 ⟨hh.1, hh.2.1⟩)]; simp
  · by_cases hL : c.ilLsb ≤ i ∧ i < c.ilLsb + c.ilWidth ∧ d.level.isSome
    · simp [hL, h12]
    · rw [if_neg hL, if_neg h12, if_neg h12, if_neg hL]
      cases d.maskable <;> simp

/-! ### The fields after an entry, a return and a reset -/

@[simp] theorem enter_config (d : Descriptor) (s : State) : (enter d s).config = s.config := by unfold enter; split <;> rfl
@[simp] theorem enter_regs (d : Descriptor) (s : State) : (enter d s).regs = s.regs := by unfold enter; split <;> rfl
@[simp] theorem enter_psw (d : Descriptor) (s : State) : (enter d s).psw = entryPsw s.config s.psw d := by
  unfold enter; split <;> rfl
@[simp] theorem enter_pc (d : Descriptor) (s : State) : (enter d s).pc = d.handler &&& 0xFFFFFFFE#32 := by
  unfold enter; split <;> rfl
@[simp] theorem enter_chcw (d : Descriptor) (s : State) : (enter d s).chcw = s.chcw := by unfold enter; split <;> rfl
@[simp] theorem enter_adtre (d : Descriptor) (s : State) : (enter d s).adtre = s.adtre := by unfold enter; split <;> rfl
@[simp] theorem enter_pending (d : Descriptor) (s : State) :
    (enter d s).pending = removePending d.type s.pending := by unfold enter; split <;> rfl
@[simp] theorem enter_halted (d : Descriptor) (s : State) : (enter d s).halted = false := by unfold enter; split <;> rfl
@[simp] theorem enter_fatal (d : Descriptor) (s : State) : (enter d s).fatal = s.fatal := by unfold enter; split <;> rfl
@[simp] theorem enter_cycles (d : Descriptor) (s : State) : (enter d s).cycles = s.cycles := by unfold enter; split <;> rfl
@[simp] theorem enter_mem (d : Descriptor) (s : State) : (enter d s).mem = s.mem := by unfold enter; split <;> rfl
@[simp] theorem enter_offers (d : Descriptor) (s : State) : (enter d s).offers = s.offers := by unfold enter; split <;> rfl
@[simp] theorem enter_deviceAnswers (d : Descriptor) (s : State) : (enter d s).deviceAnswers = s.deviceAnswers := by
  unfold enter; split <;> rfl
@[simp] theorem enter_deviceRequests (d : Descriptor) (s : State) : (enter d s).deviceRequests = s.deviceRequests := by
  unfold enter; split <;> rfl
@[simp] theorem enter_freeIndex (d : Descriptor) (s : State) : (enter d s).freeIndex = s.freeIndex := by
  unfold enter; split <;> rfl

/-- What a maskable entry saves. -/
theorem enter_saves_maskable {d : Descriptor} (s : State) (h : d.maskable = true) :
    (enter d s).eipc = s.pc ∧ (enter d s).eipsw = s.psw ∧ (enter d s).fepc = s.fepc ∧ (enter d s).fepsw = s.fepsw ∧
      (enter d s).ecr = insertField (zext d.exceptionCode) 0 16 s.ecr := by
  unfold enter; rw [if_pos h]; exact ⟨rfl, rfl, rfl, rfl, rfl⟩

/-- What a non-maskable entry saves. -/
theorem enter_saves_nonMaskable {d : Descriptor} (s : State) (h : d.maskable = false) :
    (enter d s).fepc = s.pc ∧ (enter d s).fepsw = s.psw ∧ (enter d s).eipc = s.eipc ∧ (enter d s).eipsw = s.eipsw ∧
      (enter d s).ecr = insertField (zext d.exceptionCode) 16 16 s.ecr := by
  unfold enter; rw [if_neg (by simp [h])]; exact ⟨rfl, rfl, rfl, rfl, rfl⟩

/-- What RETI restores, as one state. -/
theorem returnFromException_eq (s : State) :
    returnFromException s =
      { s with
        psw := rawSetPsw s.config (if pswNP s.psw then s.fepsw else s.eipsw)
        pc := (if pswNP s.psw then s.fepc else s.eipc) &&& 0xFFFFFFFE#32 } := by
  unfold returnFromException State.setPc State.setPsw; split <;> rfl

/-- The retention rule changes the pending requests only. -/
theorem applyRetention_eq (s : State) :
    applyRetention s = { s with pending := if s.config.retention = .drop then [] else s.pending } := by
  unfold applyRetention; split <;> rename_i h <;> simp [h]

/-- The three ways step 1 ends (R510). -/
theorem service_cases (s : State) :
    (∃ t, choose s.config s.pending = some t ∧
      (t = .reset ∧ service s = .finished (s.resetFrom.setCycles s.config.cycles.entry) ∨
        t ≠ .reset ∧ accepts s.config s.psw (descriptorOf s.config t) = true ∧
          service s = .finished
            ((applyRetention (enter (descriptorOf s.config t) s)).setCycles s.config.cycles.entry))) ∨
      service s = .proceed (applyRetention s) := by
  unfold service
  split
  · exact .inr rfl
  · rename_i t ht
    by_cases h1 : t = .reset
    · exact .inl ⟨t, ht, .inl ⟨h1, by rw [if_pos h1]⟩⟩
    · by_cases h2 : accepts s.config s.psw (descriptorOf s.config t) = true
      · exact .inl ⟨t, ht, .inr ⟨h1, h2, by rw [if_neg h1, if_pos h2]⟩⟩
      · exact .inr (by rw [if_neg h1, if_neg h2])

/-- A step is the tick with the next lines offered. -/
theorem step_eq_tick (s : State) : step s = tick (s.offers.headD []) { s with offers := s.offers.tail } := by
  unfold step
  split <;> rename_i h
  · rw [h]; cases s; subst h; rfl
  · rw [h]; rfl

end Sys2Proof.Machine
end

