-- ==== Sys2Proof/Laws/Effects.lean ====
section
/-! SUPPORT. Everything a meaning can do, said once: `exec_effect` (the frames of spec/41 to 48). -/

namespace Sys2Proof.Machine

open Sys2Proof

/-- What an instruction does to the PSW: outside the four that write control bits only the flags change, and a bit set outside
the flags and ID was set before or comes of a raw write (10_state.md R41 to R49). -/
structure PswEffect (i : Instr) (s : State) (p : Word) : Prop where
  control : Instr.writesControlBits i = false → ∀ b, b ∉ flagBits → p.getLsbD b = s.psw.getLsbD b
  mask : (∀ b, b ∉ [0, 1, 2, 3, 12] → p.getLsbD b = s.psw.getLsbD b) ∨ ∃ v, p = rawSetPsw s.config v

/-- What an instruction does that raises no request, sets no latch and writes no system register. -/
def OrdinaryEffect (i : Instr) (s t : State) : Prop :=
  ∃ (p : Word) (r r' : Reg) (v v' q : Word) (n : Nat) (m : Memory) (da : List DeviceAnswer) (dr : List DeviceRequest)
    (f : Nat),
    t = { (((s.setPsw p).setReg r v).setReg r' v') with
            pc := q &&& 0xFFFFFFFE#32, cycles := n, mem := m, deviceAnswers := da,
            deviceRequests := s.deviceRequests ++ dr, freeIndex := f } ∧
      PswEffect i s p ∧
      (Instr.transfersControl i = false → q = s.pc + BitVec.ofNat 32 (2 * (encode i).length)) ∧
      (m = s.mem ∨ Instr.stores i = true ∧ ∃ w a x start off backing,
        busTarget s.config .write w a = .ok (.storage start off backing) ∧
          m = writeBytes s.mem start off backing x w.bytes)

/-! ### The PSW after each kind of update -/

theorem PswEffect.same (i : Instr) (s : State) : PswEffect i s s.psw := ⟨fun _ _ _ => rfl, .inl fun _ _ => rfl⟩

/-- A word that keeps every bit but the four flags. -/
theorem PswEffect.flags {i : Instr} {s : State} {p : Word} (h : ∀ b, 4 ≤ b → p.getLsbD b = s.psw.getLsbD b) :
    PswEffect i s p := by
  refine ⟨fun _ b hb => h b ?_, .inl fun b hb => h b ?_⟩ <;>
  · simp [flagBits] at hb; omega

theorem PswEffect.add {i : Instr} {s : State} (a b : Word) : PswEffect i s (setAddFlags s.psw a b) :=
  .flags fun _ h => getLsbD_setAddFlags_of_ge _ _ _ h

theorem PswEffect.sub {i : Instr} {s : State} (a b : Word) : PswEffect i s (setSubFlags s.psw a b) :=
  .flags fun _ h => getLsbD_setSubFlags_of_ge _ _ _ h

theorem PswEffect.logic {i : Instr} {s : State} (r : Word) : PswEffect i s (setLogicFlags s.psw r) :=
  .flags fun b h => by
    rw [getLsbD_setLogicFlags, if_neg (by omega), if_neg (by omega), if_neg (by omega)]

theorem PswEffect.mulDiv {i : Instr} {s : State} (r : Word) (o : Bool) : PswEffect i s (setMulDivFlags s.psw r o) :=
  .flags fun b h => by
    rw [getLsbD_setMulDivFlags, if_neg (by omega), if_neg (by omega), if_neg (by omega)]

theorem PswEffect.shift {i : Instr} {s : State} (r : Word) (n : Nat) (c : Bool) :
    PswEffect i s (setShiftFlags s.psw r n c) :=
  .flags fun b h => by
    rw [getLsbD_setShiftFlags, if_neg (by omega), if_neg (by omega), if_neg (by omega), if_neg (by omega)]

theorem PswEffect.disable {i : Instr} {s : State} (b : Bool) (h : Instr.writesControlBits i = true) :
    PswEffect i s (setInterruptDisable s.psw b) := by
  refine ⟨fun h' => absurd (h.symm.trans h') (by decide), .inl fun k hk => ?_⟩
  unfold setInterruptDisable
  rw [getLsbD_setBit, if_neg]
  simp at hk
  omega

theorem PswEffect.raw {i : Instr} {s : State} (v : Word) (h : Instr.writesControlBits i = true) :
    PswEffect i s (rawSetPsw s.config v) :=
  ⟨fun h' => absurd (h.symm.trans h') (by decide), .inr ⟨v, rfl⟩⟩

/-! ### The shapes of the meanings -/

/-- A register and the PSW written, then `pc`. -/
theorem OrdinaryEffect.retire {i : Instr} {s : State} (p : Word) (r r' : Reg) (v v' l : Word) (n : Nat)
    (hp : PswEffect i s p) (hl : l = BitVec.ofNat 32 (2 * (encode i).length)) :
    OrdinaryEffect i s ((((s.setPsw p).setReg r v).setReg r' v').retire l n) :=
  ⟨p, r, r', v, v', s.pc + l, n, s.mem, s.deviceAnswers, [], s.freeIndex, by
    simp [State.retire, State.setPc, State.setCycles], hp, fun _ => by rw [hl], .inl rfl⟩

/-- Control transferred. -/
theorem OrdinaryEffect.jump {i : Instr} {s : State} (p : Word) (r : Reg) (v q : Word) (n : Nat)
    (hp : PswEffect i s p) (hc : Instr.transfersControl i = true) :
    OrdinaryEffect i s ((((s.setPsw p).setReg r v).setPc q).setCycles n) :=
  ⟨p, r, 0#5, v, 0#32, q, n, s.mem, s.deviceAnswers, [], s.freeIndex, by
    simp [State.setPc, State.setCycles], hp, fun h => absurd (hc.symm.trans h) (by decide), .inl rfl⟩

theorem OrdinaryEffect.branch {i : Instr} {s t : State} {c : BitVec 4} {d : BitVec 9}
    (h : branchOn c d s = .next t) (hl : 2#32 = BitVec.ofNat 32 (2 * (encode i).length))
    (hc : c ≠ 0xD#4 → Instr.transfersControl i = true) : OrdinaryEffect i s t := by
  unfold branchOn at h
  split at h <;> rename_i hcond <;> simp only [Host.Outcome.next.injEq] at h <;> subst h
  · exact OrdinaryEffect.jump s.psw 0#5 0#32 _ _ (.same _ _) (hc (by rintro rfl; cases hcond))
  · exact OrdinaryEffect.retire s.psw 0#5 0#5 0#32 0#32 _ _ (.same _ _) hl

theorem OrdinaryEffect.load {i j : Instr} {s t : State} {n : Width} {e : Word → Word} {d : Half} {r1 r2 : Reg}
    (h : loadFrom j n e d r1 r2 s = .next t) (hl : 4#32 = BitVec.ofNat 32 (2 * (encode i).length)) :
    OrdinaryEffect i s t := by
  unfold loadFrom at h
  split at h
  · cases h
  · rename_i v u hb
    simp only [Host.Outcome.next.injEq] at h
    obtain ⟨da, f, r, rfl⟩ := busRead_effect hb
    subst h
    refine ⟨s.psw, r2, 0#5, e v, 0#32, s.pc + 4#32, s.config.cycles.load, s.mem, da, r, f, ?_, .same _ _,
      fun _ => by rw [hl], .inl rfl⟩
    by_cases hr : r2 = 0#5 <;> simp [State.setReg, State.setPsw, State.retire, State.setPc, State.setCycles, hr]

theorem OrdinaryEffect.store {i j : Instr} {s t : State} {n : Width} {d : Half} {r1 r2 : Reg}
    (h : storeTo j n r2 d r1 s = .next t) (hl : 4#32 = BitVec.ofNat 32 (2 * (encode i).length))
    (hs : Instr.stores i = true) : OrdinaryEffect i s t := by
  unfold storeTo at h
  split at h
  · cases h
  · rename_i u hb
    simp only [Host.Outcome.next.injEq] at h
    obtain ⟨m, da, f, r, rfl, hm⟩ := busWrite_effect hb
    subst h
    refine ⟨s.psw, 0#5, 0#5, 0#32, 0#32, s.pc + 4#32, s.config.cycles.store, m, da, r, f, ?_, .same _ _,
      fun _ => by rw [hl], hm.imp id fun ⟨a, b, c, h, e⟩ => ⟨hs, _, _, _, _, _, _, h, e⟩⟩
    simp [State.setPsw, State.retire, State.setPc, State.setCycles]

theorem OrdinaryEffect.caxi {s t : State} {d : Half} {r1 r2 : Reg}
    (h : (match busRead .word (effectiveAddress s r1 d) s with
      | .error k => fatalBus (.caxi d r1 r2) k (effectiveAddress s r1 d) s
      | .ok (v, s1) =>
        match busWrite .word (effectiveAddress s r1 d)
            (if pswZ (setSubFlags s.psw (s.reg r2) v) then s.reg exchangeReg else v) s1 with
        | .error k => fatalBus (.caxi d r1 r2) k (effectiveAddress s r1 d) s
        | .ok s2 =>
          .next (((s2.setPsw (setSubFlags s.psw (s.reg r2) v)).setReg r2 v).retire 4#32 s.config.cycles.caxi)) =
      .next t) : OrdinaryEffect (.caxi d r1 r2) s t := by
  split at h
  · cases h
  · rename_i v u hb
    split at h
    · cases h
    · rename_i u' hw
      simp only [Host.Outcome.next.injEq] at h
      obtain ⟨da, f, r, rfl⟩ := busRead_effect hb
      obtain ⟨m, da', f', r', rfl, hm⟩ := busWrite_effect hw
      subst h
      refine ⟨setSubFlags s.psw (s.reg r2) v, r2, 0#5, v, 0#32, s.pc + 4#32, s.config.cycles.caxi, m, da', r ++ r', f', ?_,
        .sub _ _,
        fun _ => rfl, hm.imp id fun ⟨a, b, c, h, e⟩ => ⟨rfl, _, _, _, _, _, _, h, e⟩⟩
      by_cases hr : r2 = 0#5 <;>
        simp [State.setReg, State.setPsw, State.retire, State.setPc, State.setCycles, hr, List.append_assoc]

/-! ### Everything `exec` can do -/

/-- A next state is one of these: the IllegalOpcode request raised; a Trap request raised; the halt latch set; a system
register written; or an ordinary effect. -/
theorem exec_effect {i : Instr} {s t : State} (h : exec i s = .next t) :
    (∃ n, t = (s.request .illegalOpcode).setCycles n ∧
      (Instr.transfersControl i = true ∨ s.config.admitGkInstr = false)) ∨
    (∃ v u n, i = .trap v u ∧ s.config.admitGkInstr = true ∧ t = (s.request (.trap v)).retire 2#32 n) ∨
    (∃ u n, i = .halt u ∧ s.config.admitGkInstr = true ∧ t = { s with halted := true }.retire 2#32 n) ∨
    (∃ r id u n, i = .ldsr r id ∧ sysWrite s id (s.reg r) = some u ∧ t = u.retire 2#32 n) ∨
    OrdinaryEffect i s t := by
  have adm : ∀ {m : Result}, (m = .next t → OrdinaryEffect i s t) → admitted s m = .next t →
      (∃ n, t = (s.request .illegalOpcode).setCycles n ∧
        (Instr.transfersControl i = true ∨ s.config.admitGkInstr = false)) ∨ OrdinaryEffect i s t := by
    intro m hm ha
    unfold admitted at ha
    split at ha
    · exact .inr (hm ha)
    · rename_i hf
      simp only [raiseIllegal, Host.Outcome.next.injEq] at ha
      exact .inl ⟨_, ha.symm, .inr (by simpa using hf)⟩
  have wide : ∀ {m : Result}, (m = .next t → OrdinaryEffect i s t) → m = .next t →
    (∃ n, t = (s.request .illegalOpcode).setCycles n ∧
      (Instr.transfersControl i = true ∨ s.config.admitGkInstr = false)) ∨
    (∃ v u n, i = .trap v u ∧ s.config.admitGkInstr = true ∧ t = (s.request (.trap v)).retire 2#32 n) ∨
    (∃ u n, i = .halt u ∧ s.config.admitGkInstr = true ∧ t = { s with halted := true }.retire 2#32 n) ∨
    (∃ r id u n, i = .ldsr r id ∧ sysWrite s id (s.reg r) = some u ∧ t = u.retire 2#32 n) ∨
    OrdinaryEffect i s t := fun hm h => .inr (.inr (.inr (.inr (hm h))))
  have next : ∀ {u : State}, OrdinaryEffect i s u → (Host.Outcome.next u : Result) = .next t → OrdinaryEffect i s t := by
    intro u hu h
    simp only [Host.Outcome.next.injEq] at h
    exact h ▸ hu
  cases i
  case illegal1B | illegal32 | illegal36 | illegal3E01 | illegal3E0D | illegal3E0E | illegal3E10 | illegal3E20 =>
    simp only [exec, execIllegal1B, execIllegal32, execIllegal36, execIllegal3E01, execIllegal3E0D, execIllegal3E0E,
      execIllegal3E10, execIllegal3E20, raiseIllegal, Host.Outcome.next.injEq] at h
    exact .inl ⟨_, h.symm, .inl rfl⟩
  case bitstring | cmpfS | cvtWS | cvtSW | addfS | subfS | mulfS | divfS | xb | xh | rev | trncSW | mpyhw => cases h
  case mov | movImm | movea | movhi => exact wide (next (.retire s.psw 0#5 _ 0#32 _ _ _ (.same _ _) rfl)) h
  case add | addImm => exact wide (next (.retire _ 0#5 _ 0#32 _ _ _ (.add _ _) rfl)) h
  case sub => exact wide (next (.retire _ 0#5 _ 0#32 _ _ _ (.sub _ _) rfl)) h
  case cmp | cmpImm => exact wide (next (.retire _ 0#5 0#5 0#32 0#32 _ _ (.sub _ _) rfl)) h
  case or | and | xor | not | ori | andi | xori => exact wide (next (.retire _ 0#5 _ 0#32 _ _ _ (.logic _) rfl)) h
  case shl | shr | sar | shlImm | shrImm | sarImm => exact wide (next (.retire _ 0#5 _ 0#32 _ _ _ (.shift _ _ _) rfl)) h
  case mul | mulu => exact wide (next (.retire _ _ _ _ _ _ _ (.mulDiv _ _) rfl)) h
  case div =>
    simp only [exec, execDiv] at h
    split at h
    · cases h
    · split at h <;> exact wide (next (.retire _ _ _ _ _ _ _ (.mulDiv _ _) rfl)) h
  case divu =>
    simp only [exec, execDivu] at h
    split at h
    · cases h
    · exact wide (next (.retire _ _ _ _ _ _ _ (.mulDiv _ _) rfl)) h
  case setf => exact (adm (next (.retire s.psw 0#5 _ 0#32 _ _ _ (.same _ _) rfl)) h).imp id (.inr ∘ .inr ∘ .inr)
  case addi => exact (adm (next (.retire _ 0#5 _ 0#32 _ _ _ (.add _ _) rfl)) h).imp id (.inr ∘ .inr ∘ .inr)
  case br d => exact wide (fun h => .branch (c := 0x5#4) (d := d) h rfl (fun _ => rfl)) h
  case bv | bc | be | bnh | bn | blt | ble | bnv | bnc | bne | bh | bp | bge | bgt =>
    exact wide (fun h => .branch h rfl (fun _ => rfl)) h
  case nop d => exact wide (fun h => .branch (c := 0xD#4) (d := d) h rfl (fun hc => absurd rfl hc)) h
  case jmp => exact wide (next (.jump s.psw 0#5 0#32 _ _ (.same _ _) rfl)) h
  case jr => exact wide (next (.jump s.psw 0#5 0#32 _ _ (.same _ _) rfl)) h
  case jal => exact wide (next (.jump s.psw _ _ _ _ (.same _ _) rfl)) h
  case cli | sei => exact wide (next (.retire _ 0#5 0#5 0#32 0#32 _ _ (.disable _ rfl) rfl)) h
  case reti =>
    simp only [exec, execReti, returnFromException] at h
    split at h <;> exact wide (next (.jump _ 0#5 0#32 _ _ (.raw _ rfl) rfl)) h
  case stsr =>
    simp only [exec, execStsr] at h
    split at h
    · exact wide (next (.retire s.psw 0#5 _ 0#32 _ _ _ (.same _ _) rfl)) h
    · cases h
  case ldsr =>
    simp only [exec, execLdsr] at h
    split at h
    · rename_i u hu
      simp only [Host.Outcome.next.injEq] at h
      exact .inr (.inr (.inr (.inl ⟨_, _, _, _, rfl, hu, h.symm⟩)))
    · cases h
  case trap =>
    simp only [exec, execTrap, admitted, raiseIllegal] at h
    split at h <;> rename_i ha <;> simp only [Host.Outcome.next.injEq] at h
    · exact .inr (.inl ⟨_, _, _, rfl, ha, h.symm⟩)
    · exact .inl ⟨_, h.symm, .inr (by simpa using ha)⟩
  case halt =>
    simp only [exec, execHalt, admitted, raiseIllegal] at h
    split at h <;> rename_i ha <;> simp only [Host.Outcome.next.injEq] at h
    · exact .inr (.inr (.inl ⟨_, _, rfl, ha, h.symm⟩))
    · exact .inl ⟨_, h.symm, .inr (by simpa using ha)⟩
  case ldB | ldH | ldW | inB | inH | inW => exact wide (fun h => .load h rfl) h
  case stB | stH | stW | outB | outH | outW => exact wide (fun h => .store h rfl rfl) h
  case caxi => exact (adm (fun h => .caxi h) h).imp id (.inr ∘ .inr ∘ .inr)

/-- A write of the system register bank changes that register only, ECR never. -/
theorem sysWrite_effect {s u : State} {id : SysReg} {v : Word} (h : sysWrite s id v = some u) :
    u.config = s.config ∧ u.regs = s.regs ∧ u.pc = s.pc ∧ u.ecr = s.ecr ∧ u.pending = s.pending ∧
      u.halted = s.halted ∧ u.mem = s.mem ∧ u.offers = s.offers ∧ u.deviceRequests = s.deviceRequests ∧
      (u.psw = s.psw ∨ id = 5#5 ∧ u.psw = rawSetPsw s.config v) ∧
      (u.chcw = s.chcw ∨ u.chcw = v &&& 0x00000002#32) := by
  unfold sysWrite at h
  split at h <;> simp only [Option.some.injEq, reduceCtorEq] at h <;> subst h <;> simp

/-! ### The fetch and the step -/

/-- The fetch changes the schedule, the record and the free counter only. -/
theorem fetch_effect {s u : State} {i : Instr} (h : fetch s = .ok (i, u)) :
    ∃ da f r, u = { s with deviceAnswers := da, deviceRequests := s.deviceRequests ++ r, freeIndex := f } := by
  unfold fetch at h
  split at h
  · cases h
  · rename_i v0 s1 h0
    obtain ⟨da, f, r, rfl⟩ := busRead_effect h0
    simp only at h
    split at h
    · split at h
      · cases h
      · rename_i v1 s2 h1
        obtain ⟨da', f', r', rfl⟩ := busRead_effect h1
        simp only [Except.ok.injEq, Prod.mk.injEq] at h
        exact ⟨da', f', r ++ r', by rw [← h.2]; simp⟩
    · simp only [Except.ok.injEq, Prod.mk.injEq] at h
      exact ⟨da, f, r, by rw [← h.2]⟩

/-- The four ways a step makes a next state (60_exceptions.md R510): a reset, an entry, an idle tick, an instruction. -/
theorem step_cases {s t : State} (h : step s = .next t) :
    ∃ s0, s0 = mergeOffered (s.offers.headD []) { s with offers := s.offers.tail } ∧
      (t = s0.resetFrom.setCycles s0.config.cycles.entry ∨
        (∃ ty, choose s0.config s0.pending = some ty ∧
          t = (applyRetention (enter (descriptorOf s0.config ty) s0)).setCycles s0.config.cycles.entry) ∨
        (s0.halted = true ∧ t = (applyRetention s0).setCycles s0.config.cycles.haltIdle) ∨
        ∃ i u, fetch (applyRetention s0) = .ok (i, u) ∧ exec i u = .next t) := by
  refine ⟨_, rfl, ?_⟩
  rw [step_eq_tick] at h
  unfold tick at h
  split at h
  · cases h
  · generalize mergeOffered (s.offers.headD []) { s with offers := s.offers.tail } = s0 at h ⊢
    rcases service_cases s0 with ⟨ty, hty, ⟨_, e⟩ | ⟨_, _, e⟩⟩ | e <;> rw [e] at h <;> simp only at h
    · simp only [Host.Outcome.next.injEq] at h; exact .inl h.symm
    · simp only [Host.Outcome.next.injEq] at h; exact .inr (.inl ⟨ty, hty, h.symm⟩)
    · unfold runInstruction at h
      split at h
      · rename_i hh
        simp only [Host.Outcome.next.injEq] at h
        rw [applyRetention_eq] at hh
        exact .inr (.inr (.inl ⟨hh, by rw [← h, applyRetention_eq]⟩))
      · split at h
        · cases h
        · rename_i i u hf
          exact .inr (.inr (.inr ⟨i, u, hf, h⟩))

end Sys2Proof.Machine
end

