-- ==== Sys2Proof/Laws/Encoding.lean ====
section
/-! SUPPORT. The fields of the encoding forms (spec/30_encoding.md R144 to R150) read back, and the forms in the spec's own
spelling. -/

namespace Sys2Proof

/-- The bits of Formats I, II, V, VI, VII. -/
theorem getLsbD_formRegs (op : BitVec 6) (r2 : Reg) (r1 : BitVec 5) (i : Nat) :
    (formRegs op r2 r1).getLsbD i =
      if i < 5 then r1.getLsbD i else if i - 5 < 5 then r2.getLsbD (i - 5) else op.getLsbD (i - 5 - 5) :=
  (BitVec.getLsbD_append (x := op ++ r2) (y := r1) (i := i)).trans (by rw [BitVec.getLsbD_append])

/-- The bits of a half-word whose low ten bits are one field. -/
theorem getLsbD_formLow10 (op : BitVec 6) (u : BitVec 10) (i : Nat) :
    (formLow10 op u).getLsbD i = if i < 10 then u.getLsbD i else op.getLsbD (i - 10) :=
  BitVec.getLsbD_append (x := op) (y := u) (i := i)

/-- The bits of Format III. -/
theorem getLsbD_formBranch (c : BitVec 4) (d : BitVec 9) (i : Nat) :
    (formBranch c d).getLsbD i =
      if i < 9 then d.getLsbD i else if i - 9 < 4 then c.getLsbD (i - 9) else (0b100#3).getLsbD (i - 9 - 4) :=
  (BitVec.getLsbD_append (x := 0b100#3 ++ c) (y := d) (i := i)).trans (by rw [BitVec.getLsbD_append])

@[simp] theorem opcodeOf_formRegs (op : BitVec 6) (r2 : Reg) (r1 : BitVec 5) : opcodeOf (formRegs op r2 r1) = op := by
  apply BitVec.eq_of_getLsbD_eq; intro i hi
  rw [opcodeOf, BitVec.getLsbD_extractLsb', getLsbD_formRegs, if_neg (by omega), if_neg (by omega),
    show 10 + i - 5 - 5 = i by omega, decide_eq_true hi, Bool.true_and]

@[simp] theorem reg2Of_formRegs (op : BitVec 6) (r2 : Reg) (r1 : BitVec 5) : reg2Of (formRegs op r2 r1) = r2 := by
  apply BitVec.eq_of_getLsbD_eq; intro i hi
  rw [reg2Of, BitVec.getLsbD_extractLsb', getLsbD_formRegs, if_neg (by omega), if_pos (by omega),
    show 5 + i - 5 = i by omega, decide_eq_true hi, Bool.true_and]

@[simp] theorem reg1Of_formRegs (op : BitVec 6) (r2 : Reg) (r1 : BitVec 5) : reg1Of (formRegs op r2 r1) = r1 := by
  apply BitVec.eq_of_getLsbD_eq; intro i hi
  rw [reg1Of, BitVec.getLsbD_extractLsb', getLsbD_formRegs, if_pos (by omega), Nat.zero_add, decide_eq_true hi,
    Bool.true_and]

@[simp] theorem opcodeOf_formLow10 (op : BitVec 6) (u : BitVec 10) : opcodeOf (formLow10 op u) = op := by
  apply BitVec.eq_of_getLsbD_eq; intro i hi
  rw [opcodeOf, BitVec.getLsbD_extractLsb', getLsbD_formLow10, if_neg (by omega), show 10 + i - 10 = i by omega,
    decide_eq_true hi, Bool.true_and]

@[simp] theorem low10Of_formLow10 (op : BitVec 6) (u : BitVec 10) : low10Of (formLow10 op u) = u := by
  apply BitVec.eq_of_getLsbD_eq; intro i hi
  rw [low10Of, BitVec.getLsbD_extractLsb', getLsbD_formLow10, if_pos (by omega), Nat.zero_add, decide_eq_true hi,
    Bool.true_and]

@[simp] theorem subOf_formLow10 (op : BitVec 6) (u : BitVec 10) : subOf (formLow10 op u) = op := opcodeOf_formLow10 op u

@[simp] theorem condOf_formBranch (c : BitVec 4) (d : BitVec 9) : condOf (formBranch c d) = c := by
  apply BitVec.eq_of_getLsbD_eq; intro i hi
  rw [condOf, BitVec.getLsbD_extractLsb', getLsbD_formBranch, if_neg (by omega), show 9 + i - 9 = i by omega, if_pos hi,
    decide_eq_true hi, Bool.true_and]

@[simp] theorem disp9Of_formBranch (c : BitVec 4) (d : BitVec 9) : disp9Of (formBranch c d) = d := by
  apply BitVec.eq_of_getLsbD_eq; intro i hi
  rw [disp9Of, BitVec.getLsbD_extractLsb', getLsbD_formBranch, if_pos (by omega), Nat.zero_add, decide_eq_true hi,
    Bool.true_and]

/-- Formats I, II, V, VI, VII as `opcode << 10 | reg2 << 5 | reg1`. -/
theorem formRegs_eq (op : BitVec 6) (r2 : Reg) (r1 : BitVec 5) :
    formRegs op r2 r1 = Machine.wordRegs (op.setWidth 16 <<< 10) r2 r1 := by
  apply BitVec.eq_of_getLsbD_eq; intro i hi
  rw [getLsbD_formRegs, Machine.wordRegs]
  simp only [BitVec.getLsbD_or, BitVec.getLsbD_shiftLeft, BitVec.getLsbD_setWidth]
  by_cases h1 : i < 5
  · simp [h1, show i < 10 by omega, hi]
  · by_cases h2 : i < 10
    · simp [h1, h2, show i - 5 < 5 by omega, hi, BitVec.getLsbD_of_ge r1 i (by omega), show i - 5 < 16 by omega]
    · simp [h1, h2, show ¬ i - 5 < 5 by omega, hi, BitVec.getLsbD_of_ge r1 i (by omega),
        BitVec.getLsbD_of_ge r2 (i - 5) (by omega), show i - 5 - 5 = i - 10 by omega, show i - 10 < 16 by omega]

/-- A half-word whose low ten bits are one field, as `opcode << 10 | field`. -/
theorem formLow10_eq (op : BitVec 6) (u : BitVec 10) :
    formLow10 op u = (op.setWidth 16 <<< 10) ||| u.setWidth 16 := by
  apply BitVec.eq_of_getLsbD_eq; intro i hi
  rw [getLsbD_formLow10]
  simp only [BitVec.getLsbD_or, BitVec.getLsbD_shiftLeft, BitVec.getLsbD_setWidth]
  by_cases h1 : i < 10
  · simp [h1, hi]
  · simp [h1, hi, BitVec.getLsbD_of_ge u i (by omega), show i - 10 < 16 by omega]

/-- Format III as `0x8000 | cond << 9 | disp9` (40_branch.md R217). -/
theorem formBranch_eq (c : BitVec 4) (d : BitVec 9) :
    formBranch c d = 0x8000#16 ||| (c.setWidth 16 <<< 9) ||| d.setWidth 16 := by
  apply BitVec.eq_of_getLsbD_eq; intro i hi
  rw [getLsbD_formBranch]
  have h8 : (0x8000#16).getLsbD i = decide (i = 15) := by interval_cases i <;> rfl
  simp only [BitVec.getLsbD_or, BitVec.getLsbD_shiftLeft, BitVec.getLsbD_setWidth, h8]
  by_cases h1 : i < 9
  · simp [h1, hi, show i ≠ 15 by omega]
  · by_cases h2 : i - 9 < 4
    · simp [h1, hi, h2, BitVec.getLsbD_of_ge d i (by omega), show i ≠ 15 by omega, show i - 9 < 16 by omega]
    · have h3 : (0b100#3).getLsbD (i - 9 - 4) = decide (i = 15) := by interval_cases i <;> simp_all
      simp only [h1, h2, if_false, h3]
      simp [hi, BitVec.getLsbD_of_ge d i (by omega), BitVec.getLsbD_of_ge c (i - 9) (by omega)]

/-- A half-word is its opcode, reg2 and reg1. -/
theorem formRegs_fields {w0 : Half} {k : BitVec 6} (h : opcodeOf w0 = k) :
    formRegs k (reg2Of w0) (reg1Of w0) = w0 := by
  subst h
  apply BitVec.eq_of_getLsbD_eq; intro i hi
  rw [getLsbD_formRegs]
  unfold opcodeOf reg2Of reg1Of
  simp only [BitVec.getLsbD_extractLsb']
  by_cases h1 : i < 5
  · simp [-BitVec.getLsbD_eq_getElem, h1]
  · by_cases h2 : i - 5 < 5
    · simp [-BitVec.getLsbD_eq_getElem, h1, h2, show 5 + (i - 5) = i by omega]
    · simp [-BitVec.getLsbD_eq_getElem, h1, h2, show 10 + (i - 5 - 5) = i by omega, show i - 5 - 5 < 6 by omega]

/-- A half-word is its opcode and its low ten bits. -/
theorem formLow10_fields {w0 : Half} {k : BitVec 6} (h : opcodeOf w0 = k) : formLow10 k (low10Of w0) = w0 := by
  subst h
  apply BitVec.eq_of_getLsbD_eq; intro i hi
  rw [getLsbD_formLow10]
  unfold opcodeOf low10Of
  simp only [BitVec.getLsbD_extractLsb']
  by_cases h1 : i < 10
  · simp [-BitVec.getLsbD_eq_getElem, h1]
  · simp [-BitVec.getLsbD_eq_getElem, h1, show 10 + (i - 10) = i by omega, show i - 10 < 6 by omega]

/-- A half-word of Format III is its condition and displacement. -/
theorem formBranch_fields {w0 : Half} {c : BitVec 4} (h : condOf w0 = c)
    (h3 : w0.extractLsb' 13 3 = 0b100#3) : formBranch c (disp9Of w0) = w0 := by
  subst h
  apply BitVec.eq_of_getLsbD_eq; intro i hi
  rw [getLsbD_formBranch, ← h3]
  unfold condOf disp9Of
  simp only [BitVec.getLsbD_extractLsb']
  by_cases h1 : i < 9
  · simp [-BitVec.getLsbD_eq_getElem, h1]
  · by_cases h2 : i - 9 < 4
    · simp [-BitVec.getLsbD_eq_getElem, h1, h2, show 9 + (i - 9) = i by omega]
    · simp [-BitVec.getLsbD_eq_getElem, h1, h2, show 13 + (i - 9 - 4) = i by omega, show i - 9 - 4 < 3 by omega]

/-- The bytes of a half-word, put together again. -/
theorem halfOfBytes_bytes (h : Half) : halfOfBytes (h.extractLsb' 0 8) (h.extractLsb' 8 8) = h := by
  apply BitVec.eq_of_getLsbD_eq; intro i hi
  refine (BitVec.getLsbD_append (x := h.extractLsb' 8 8) (y := h.extractLsb' 0 8) (i := i)).trans ?_
  by_cases h1 : i < 8
  · simp [-BitVec.getLsbD_eq_getElem, h1]
  · simp [-BitVec.getLsbD_eq_getElem, h1, show i - 8 < 8 by omega, show 8 + (i - 8) = i by omega]

/-- The length by the primary opcode (R142, R155). -/
theorem instrLength_of {w0 : Half} {k : BitVec 6} (h : opcodeOf w0 = k) :
    instrLength w0 = if k.toNat < 0x28 then 2 else if k = 0x32#6 ∨ k = 0x36#6 then 2 else 4 := by
  unfold instrLength; rw [h]

end Sys2Proof
end

