-- ==== Sys2Proof/Laws/PerInstr.lean ====
section
/-! SUPPORT. Decode and encode agree, and the encoded length is the decoder's: one lemma of each family per
constructor of `Instr` (spec/30_encoding.md R142, R160). -/

namespace Sys2Proof.Laws

open Sys2Proof

/-- Decoding the half-words of a well-formed instruction gives it back; where it has one half-word the second is not read. -/
def DecodeEncode.Statement (i : Instr) : Prop :=
  i.wellFormed = true → decode (word0 i) ((word1 i).getD 0#16) = i

/-- A branch word is decoded by its condition (R146). -/
theorem decode_formBranch (c : BitVec 4) (d : BitVec 9) (w1 : Half) :
    decode (formBranch c d) w1 = decodeBranch c d := by
  have h : ∀ k : BitVec 6, opcodeOf (formBranch c d) = k → 0x20 ≤ k.toNat ∧ k.toNat ≤ 0x27 := by
    intro k hk
    have h5 : k.getLsbD 5 = true := by
      rw [← hk, opcodeOf, BitVec.getLsbD_extractLsb', getLsbD_formBranch]; rfl
    have h4 : k.getLsbD 4 = false := by
      rw [← hk, opcodeOf, BitVec.getLsbD_extractLsb', getLsbD_formBranch]; rfl
    have h3 : k.getLsbD 3 = false := by
      rw [← hk, opcodeOf, BitVec.getLsbD_extractLsb', getLsbD_formBranch]; rfl
    revert h3 h4 h5; clear hk; revert k; decide
  delta decode
  generalize hk : opcodeOf (formBranch c d) = k
  have hr := h k hk
  have hc : decodeBranch (condOf (formBranch c d)) (disp9Of (formBranch c d)) = decodeBranch c d := by
    rw [condOf_formBranch, disp9Of_formBranch]
  rw [hc]
  clear hc h hk
  revert k
  generalize decodeBranch c d = b
  generalize formBranch c d = w0
  intro k ⟨h1, h2⟩
  have : k = 0x20#6 ∨ k = 0x21#6 ∨ k = 0x22#6 ∨ k = 0x23#6 ∨ k = 0x24#6 ∨ k = 0x25#6 ∨ k = 0x26#6 ∨ k = 0x27#6 := by
    revert k; decide
  rcases this with rfl | rfl | rfl | rfl | rfl | rfl | rfl | rfl <;> rfl

/-- A word of Format VII is decoded by its sub-opcode (R150). -/
theorem decode_formVII (r1 r2 : Reg) (code : BitVec 6) (u : BitVec 10) :
    decode (formRegs 0x3E#6 r2 r1) (formLow10 code u) = decodeSub r1 r2 code u := by
  delta decode
  rw [opcodeOf_formRegs]
  change decodeSub (reg1Of (formRegs 0x3E#6 r2 r1)) (reg2Of (formRegs 0x3E#6 r2 r1)) (subOf (formLow10 code u))
    (low10Of (formLow10 code u)) = _
  rw [reg1Of_formRegs, reg2Of_formRegs, subOf_formLow10, low10Of_formLow10]

/-- The two halves of a displacement (R147). -/
theorem append_halves (d : BitVec 26) : (d.extractLsb' 16 10 ++ d.extractLsb' 0 16 : BitVec 26) = d := by
  apply BitVec.eq_of_getLsbD_eq
  intro i hi
  refine (BitVec.getLsbD_append (x := d.extractLsb' 16 10) (y := d.extractLsb' 0 16) (i := i)).trans ?_
  by_cases h : i < 16
  · simp [h]
  · simp [h, show i - 16 < 10 by omega, show 16 + (i - 16) = i by omega]

/-- The ignored bit and the condition of SETF (R145, R157). -/
theorem setf_fields (u : BitVec 1) (c : BitVec 4) (r2 : Reg) :
    (formRegs 0x12#6 r2 (u ++ c)).extractLsb' 4 1 = u ∧ (formRegs 0x12#6 r2 (u ++ c)).extractLsb' 0 4 = c := by
  have h : ∀ i, i < 5 → (formRegs 0x12#6 r2 (u ++ c)).getLsbD i = if i < 4 then c.getLsbD i else u.getLsbD (i - 4) := by
    intro i hi
    rw [getLsbD_formRegs, if_pos hi]
    exact BitVec.getLsbD_append
  constructor
  · apply BitVec.eq_of_getLsbD_eq; intro i hi
    rw [BitVec.getLsbD_extractLsb', h _ (by omega), if_neg (by omega), show 4 + i - 4 = i by omega, decide_eq_true hi,
      Bool.true_and]
  · apply BitVec.eq_of_getLsbD_eq; intro i hi
    rw [BitVec.getLsbD_extractLsb', h _ (by omega), if_pos (by omega), Nat.zero_add, decide_eq_true hi, Bool.true_and]

/-- The sub-opcodes of the grouped ILLEGAL rows (48_subopcode.md R415). -/
theorem sub_illegal3E0E (r1 r2 : Reg) (u : BitVec 10) : ∀ code : BitVec 6,
    (Instr.illegal3E0E r1 r2 code u).wellFormed = true → decodeSub r1 r2 code u = .illegal3E0E r1 r2 code u := by
  intro code h
  have : code = 0x0E#6 ∨ code = 0x0F#6 := by
    revert h; simp only [Instr.wellFormed]; revert code; decide
  rcases this with rfl | rfl <;> rfl

theorem sub_illegal3E10 (r1 r2 : Reg) (u : BitVec 10) : ∀ code : BitVec 6,
    (Instr.illegal3E10 r1 r2 code u).wellFormed = true → decodeSub r1 r2 code u = .illegal3E10 r1 r2 code u := by
  intro code h
  have h1 : 0x10 ≤ code.toNat ∧ code.toNat ≤ 0x1f := by simpa only [Instr.wellFormed, decide_eq_true_eq] using h
  clear h
  revert code
  generalize hu : u = w
  have key : ∀ k, k < 64 → 0x10 ≤ k ∧ k ≤ 0x1f →
      decodeSub r1 r2 (BitVec.ofNat 6 k) w = .illegal3E10 r1 r2 (BitVec.ofNat 6 k) w := by
    intro k hk hr
    interval_cases k <;> first | rfl | omega
  intro code hr
  have := key code.toNat (by have := code.isLt; omega) hr
  simpa only [BitVec.ofNat_toNat, BitVec.setWidth_eq] using this

theorem sub_illegal3E20 (r1 r2 : Reg) (u : BitVec 10) : ∀ code : BitVec 6,
    (Instr.illegal3E20 r1 r2 code u).wellFormed = true → decodeSub r1 r2 code u = .illegal3E20 r1 r2 code u := by
  intro code h
  have h1 : 0x20 ≤ code.toNat ∧ code.toNat ≤ 0x3f := by simpa only [Instr.wellFormed, decide_eq_true_eq] using h
  clear h
  revert code
  generalize hu : u = w
  have key : ∀ k, k < 64 → 0x20 ≤ k ∧ k ≤ 0x3f →
      decodeSub r1 r2 (BitVec.ofNat 6 k) w = .illegal3E20 r1 r2 (BitVec.ofNat 6 k) w := by
    intro k hk hr
    interval_cases k <;> first | rfl | omega
  intro code hr
  have := key code.toNat (by have := code.isLt; omega) hr
  simpa only [BitVec.ofNat_toNat, BitVec.setWidth_eq] using this

theorem DecodeEncode.mov (reg1 reg2 : Reg) :
    DecodeEncode.Statement (.mov reg1 reg2) := by
  intro _
  delta decode
  rw [show opcodeOf (word0 (.mov reg1 reg2)) = 0x00#6 from opcodeOf_formRegs _ _ _]
  change Instr.mov (reg1Of (formRegs 0x00#6 reg2 reg1)) (reg2Of (formRegs 0x00#6 reg2 reg1)) = _
  rw [reg1Of_formRegs, reg2Of_formRegs]

theorem DecodeEncode.add (reg1 reg2 : Reg) :
    DecodeEncode.Statement (.add reg1 reg2) := by
  intro _
  delta decode
  rw [show opcodeOf (word0 (.add reg1 reg2)) = 0x01#6 from opcodeOf_formRegs _ _ _]
  change Instr.add (reg1Of (formRegs 0x01#6 reg2 reg1)) (reg2Of (formRegs 0x01#6 reg2 reg1)) = _
  rw [reg1Of_formRegs, reg2Of_formRegs]

theorem DecodeEncode.sub (reg1 reg2 : Reg) :
    DecodeEncode.Statement (.sub reg1 reg2) := by
  intro _
  delta decode
  rw [show opcodeOf (word0 (.sub reg1 reg2)) = 0x02#6 from opcodeOf_formRegs _ _ _]
  change Instr.sub (reg1Of (formRegs 0x02#6 reg2 reg1)) (reg2Of (formRegs 0x02#6 reg2 reg1)) = _
  rw [reg1Of_formRegs, reg2Of_formRegs]

theorem DecodeEncode.cmp (reg1 reg2 : Reg) :
    DecodeEncode.Statement (.cmp reg1 reg2) := by
  intro _
  delta decode
  rw [show opcodeOf (word0 (.cmp reg1 reg2)) = 0x03#6 from opcodeOf_formRegs _ _ _]
  change Instr.cmp (reg1Of (formRegs 0x03#6 reg2 reg1)) (reg2Of (formRegs 0x03#6 reg2 reg1)) = _
  rw [reg1Of_formRegs, reg2Of_formRegs]

theorem DecodeEncode.shl (reg1 reg2 : Reg) :
    DecodeEncode.Statement (.shl reg1 reg2) := by
  intro _
  delta decode
  rw [show opcodeOf (word0 (.shl reg1 reg2)) = 0x04#6 from opcodeOf_formRegs _ _ _]
  change Instr.shl (reg1Of (formRegs 0x04#6 reg2 reg1)) (reg2Of (formRegs 0x04#6 reg2 reg1)) = _
  rw [reg1Of_formRegs, reg2Of_formRegs]

theorem DecodeEncode.shr (reg1 reg2 : Reg) :
    DecodeEncode.Statement (.shr reg1 reg2) := by
  intro _
  delta decode
  rw [show opcodeOf (word0 (.shr reg1 reg2)) = 0x05#6 from opcodeOf_formRegs _ _ _]
  change Instr.shr (reg1Of (formRegs 0x05#6 reg2 reg1)) (reg2Of (formRegs 0x05#6 reg2 reg1)) = _
  rw [reg1Of_formRegs, reg2Of_formRegs]

theorem DecodeEncode.jmp (reg1 : Reg) (unused : BitVec 5) :
    DecodeEncode.Statement (.jmp reg1 unused) := by
  intro _
  delta decode
  rw [show opcodeOf (word0 (.jmp reg1 unused)) = 0x06#6 from opcodeOf_formRegs _ _ _]
  change Instr.jmp (reg1Of (formRegs 0x06#6 unused reg1)) (reg2Of (formRegs 0x06#6 unused reg1)) = _
  rw [reg1Of_formRegs, reg2Of_formRegs]

theorem DecodeEncode.sar (reg1 reg2 : Reg) :
    DecodeEncode.Statement (.sar reg1 reg2) := by
  intro _
  delta decode
  rw [show opcodeOf (word0 (.sar reg1 reg2)) = 0x07#6 from opcodeOf_formRegs _ _ _]
  change Instr.sar (reg1Of (formRegs 0x07#6 reg2 reg1)) (reg2Of (formRegs 0x07#6 reg2 reg1)) = _
  rw [reg1Of_formRegs, reg2Of_formRegs]

theorem DecodeEncode.mul (reg1 reg2 : Reg) :
    DecodeEncode.Statement (.mul reg1 reg2) := by
  intro _
  delta decode
  rw [show opcodeOf (word0 (.mul reg1 reg2)) = 0x08#6 from opcodeOf_formRegs _ _ _]
  change Instr.mul (reg1Of (formRegs 0x08#6 reg2 reg1)) (reg2Of (formRegs 0x08#6 reg2 reg1)) = _
  rw [reg1Of_formRegs, reg2Of_formRegs]

theorem DecodeEncode.div (reg1 reg2 : Reg) :
    DecodeEncode.Statement (.div reg1 reg2) := by
  intro _
  delta decode
  rw [show opcodeOf (word0 (.div reg1 reg2)) = 0x09#6 from opcodeOf_formRegs _ _ _]
  change Instr.div (reg1Of (formRegs 0x09#6 reg2 reg1)) (reg2Of (formRegs 0x09#6 reg2 reg1)) = _
  rw [reg1Of_formRegs, reg2Of_formRegs]

theorem DecodeEncode.mulu (reg1 reg2 : Reg) :
    DecodeEncode.Statement (.mulu reg1 reg2) := by
  intro _
  delta decode
  rw [show opcodeOf (word0 (.mulu reg1 reg2)) = 0x0A#6 from opcodeOf_formRegs _ _ _]
  change Instr.mulu (reg1Of (formRegs 0x0A#6 reg2 reg1)) (reg2Of (formRegs 0x0A#6 reg2 reg1)) = _
  rw [reg1Of_formRegs, reg2Of_formRegs]

theorem DecodeEncode.divu (reg1 reg2 : Reg) :
    DecodeEncode.Statement (.divu reg1 reg2) := by
  intro _
  delta decode
  rw [show opcodeOf (word0 (.divu reg1 reg2)) = 0x0B#6 from opcodeOf_formRegs _ _ _]
  change Instr.divu (reg1Of (formRegs 0x0B#6 reg2 reg1)) (reg2Of (formRegs 0x0B#6 reg2 reg1)) = _
  rw [reg1Of_formRegs, reg2Of_formRegs]

theorem DecodeEncode.or (reg1 reg2 : Reg) :
    DecodeEncode.Statement (.or reg1 reg2) := by
  intro _
  delta decode
  rw [show opcodeOf (word0 (.or reg1 reg2)) = 0x0C#6 from opcodeOf_formRegs _ _ _]
  change Instr.or (reg1Of (formRegs 0x0C#6 reg2 reg1)) (reg2Of (formRegs 0x0C#6 reg2 reg1)) = _
  rw [reg1Of_formRegs, reg2Of_formRegs]

theorem DecodeEncode.and (reg1 reg2 : Reg) :
    DecodeEncode.Statement (.and reg1 reg2) := by
  intro _
  delta decode
  rw [show opcodeOf (word0 (.and reg1 reg2)) = 0x0D#6 from opcodeOf_formRegs _ _ _]
  change Instr.and (reg1Of (formRegs 0x0D#6 reg2 reg1)) (reg2Of (formRegs 0x0D#6 reg2 reg1)) = _
  rw [reg1Of_formRegs, reg2Of_formRegs]

theorem DecodeEncode.xor (reg1 reg2 : Reg) :
    DecodeEncode.Statement (.xor reg1 reg2) := by
  intro _
  delta decode
  rw [show opcodeOf (word0 (.xor reg1 reg2)) = 0x0E#6 from opcodeOf_formRegs _ _ _]
  change Instr.xor (reg1Of (formRegs 0x0E#6 reg2 reg1)) (reg2Of (formRegs 0x0E#6 reg2 reg1)) = _
  rw [reg1Of_formRegs, reg2Of_formRegs]

theorem DecodeEncode.not (reg1 reg2 : Reg) :
    DecodeEncode.Statement (.not reg1 reg2) := by
  intro _
  delta decode
  rw [show opcodeOf (word0 (.not reg1 reg2)) = 0x0F#6 from opcodeOf_formRegs _ _ _]
  change Instr.not (reg1Of (formRegs 0x0F#6 reg2 reg1)) (reg2Of (formRegs 0x0F#6 reg2 reg1)) = _
  rw [reg1Of_formRegs, reg2Of_formRegs]

theorem DecodeEncode.movImm (imm5 : BitVec 5) (reg2 : Reg) :
    DecodeEncode.Statement (.movImm imm5 reg2) := by
  intro _
  delta decode
  rw [show opcodeOf (word0 (.movImm imm5 reg2)) = 0x10#6 from opcodeOf_formRegs _ _ _]
  change Instr.movImm (reg1Of (formRegs 0x10#6 reg2 imm5)) (reg2Of (formRegs 0x10#6 reg2 imm5)) = _
  rw [reg1Of_formRegs, reg2Of_formRegs]

theorem DecodeEncode.addImm (imm5 : BitVec 5) (reg2 : Reg) :
    DecodeEncode.Statement (.addImm imm5 reg2) := by
  intro _
  delta decode
  rw [show opcodeOf (word0 (.addImm imm5 reg2)) = 0x11#6 from opcodeOf_formRegs _ _ _]
  change Instr.addImm (reg1Of (formRegs 0x11#6 reg2 imm5)) (reg2Of (formRegs 0x11#6 reg2 imm5)) = _
  rw [reg1Of_formRegs, reg2Of_formRegs]

theorem DecodeEncode.setf (unused : BitVec 1) (cond4 : BitVec 4) (reg2 : Reg) :
    DecodeEncode.Statement (.setf unused cond4 reg2) := by
  intro _
  delta decode
  rw [show opcodeOf (word0 (.setf unused cond4 reg2)) = 0x12#6 from opcodeOf_formRegs _ _ _]
  change Instr.setf ((formRegs 0x12#6 reg2 (unused ++ cond4)).extractLsb' 4 1)
    ((formRegs 0x12#6 reg2 (unused ++ cond4)).extractLsb' 0 4)
    (reg2Of (formRegs 0x12#6 reg2 (unused ++ cond4))) = _
  rw [(setf_fields _ _ _).1, (setf_fields _ _ _).2, reg2Of_formRegs]

theorem DecodeEncode.cmpImm (imm5 : BitVec 5) (reg2 : Reg) :
    DecodeEncode.Statement (.cmpImm imm5 reg2) := by
  intro _
  delta decode
  rw [show opcodeOf (word0 (.cmpImm imm5 reg2)) = 0x13#6 from opcodeOf_formRegs _ _ _]
  change Instr.cmpImm (reg1Of (formRegs 0x13#6 reg2 imm5)) (reg2Of (formRegs 0x13#6 reg2 imm5)) = _
  rw [reg1Of_formRegs, reg2Of_formRegs]

theorem DecodeEncode.shlImm (imm5 : BitVec 5) (reg2 : Reg) :
    DecodeEncode.Statement (.shlImm imm5 reg2) := by
  intro _
  delta decode
  rw [show opcodeOf (word0 (.shlImm imm5 reg2)) = 0x14#6 from opcodeOf_formRegs _ _ _]
  change Instr.shlImm (reg1Of (formRegs 0x14#6 reg2 imm5)) (reg2Of (formRegs 0x14#6 reg2 imm5)) = _
  rw [reg1Of_formRegs, reg2Of_formRegs]

theorem DecodeEncode.shrImm (imm5 : BitVec 5) (reg2 : Reg) :
    DecodeEncode.Statement (.shrImm imm5 reg2) := by
  intro _
  delta decode
  rw [show opcodeOf (word0 (.shrImm imm5 reg2)) = 0x15#6 from opcodeOf_formRegs _ _ _]
  change Instr.shrImm (reg1Of (formRegs 0x15#6 reg2 imm5)) (reg2Of (formRegs 0x15#6 reg2 imm5)) = _
  rw [reg1Of_formRegs, reg2Of_formRegs]

theorem DecodeEncode.cli (unused : BitVec 10) :
    DecodeEncode.Statement (.cli unused) := by
  intro _
  delta decode
  rw [show opcodeOf (word0 (.cli unused)) = 0x16#6 from opcodeOf_formLow10 _ _]
  change Instr.cli (low10Of (formLow10 0x16#6 unused)) = _
  rw [low10Of_formLow10]

theorem DecodeEncode.sarImm (imm5 : BitVec 5) (reg2 : Reg) :
    DecodeEncode.Statement (.sarImm imm5 reg2) := by
  intro _
  delta decode
  rw [show opcodeOf (word0 (.sarImm imm5 reg2)) = 0x17#6 from opcodeOf_formRegs _ _ _]
  change Instr.sarImm (reg1Of (formRegs 0x17#6 reg2 imm5)) (reg2Of (formRegs 0x17#6 reg2 imm5)) = _
  rw [reg1Of_formRegs, reg2Of_formRegs]

theorem DecodeEncode.trap (vector : BitVec 5) (unused : BitVec 5) :
    DecodeEncode.Statement (.trap vector unused) := by
  intro _
  delta decode
  rw [show opcodeOf (word0 (.trap vector unused)) = 0x18#6 from opcodeOf_formRegs _ _ _]
  change Instr.trap (reg1Of (formRegs 0x18#6 unused vector)) (reg2Of (formRegs 0x18#6 unused vector)) = _
  rw [reg1Of_formRegs, reg2Of_formRegs]

theorem DecodeEncode.reti (unused : BitVec 10) :
    DecodeEncode.Statement (.reti unused) := by
  intro _
  delta decode
  rw [show opcodeOf (word0 (.reti unused)) = 0x19#6 from opcodeOf_formLow10 _ _]
  change Instr.reti (low10Of (formLow10 0x19#6 unused)) = _
  rw [low10Of_formLow10]

theorem DecodeEncode.halt (unused : BitVec 10) :
    DecodeEncode.Statement (.halt unused) := by
  intro _
  delta decode
  rw [show opcodeOf (word0 (.halt unused)) = 0x1A#6 from opcodeOf_formLow10 _ _]
  change Instr.halt (low10Of (formLow10 0x1A#6 unused)) = _
  rw [low10Of_formLow10]

theorem DecodeEncode.illegal1B (unused : BitVec 10) :
    DecodeEncode.Statement (.illegal1B unused) := by
  intro _
  delta decode
  rw [show opcodeOf (word0 (.illegal1B unused)) = 0x1B#6 from opcodeOf_formLow10 _ _]
  change Instr.illegal1B (low10Of (formLow10 0x1B#6 unused)) = _
  rw [low10Of_formLow10]

theorem DecodeEncode.ldsr (reg2 : Reg) (regID : SysReg) :
    DecodeEncode.Statement (.ldsr reg2 regID) := by
  intro _
  delta decode
  rw [show opcodeOf (word0 (.ldsr reg2 regID)) = 0x1C#6 from opcodeOf_formRegs _ _ _]
  change Instr.ldsr (reg2Of (formRegs 0x1C#6 reg2 regID)) (reg1Of (formRegs 0x1C#6 reg2 regID)) = _
  rw [reg1Of_formRegs, reg2Of_formRegs]

theorem DecodeEncode.stsr (regID : SysReg) (reg2 : Reg) :
    DecodeEncode.Statement (.stsr regID reg2) := by
  intro _
  delta decode
  rw [show opcodeOf (word0 (.stsr regID reg2)) = 0x1D#6 from opcodeOf_formRegs _ _ _]
  change Instr.stsr (reg1Of (formRegs 0x1D#6 reg2 regID)) (reg2Of (formRegs 0x1D#6 reg2 regID)) = _
  rw [reg1Of_formRegs, reg2Of_formRegs]

theorem DecodeEncode.sei (unused : BitVec 10) :
    DecodeEncode.Statement (.sei unused) := by
  intro _
  delta decode
  rw [show opcodeOf (word0 (.sei unused)) = 0x1E#6 from opcodeOf_formLow10 _ _]
  change Instr.sei (low10Of (formLow10 0x1E#6 unused)) = _
  rw [low10Of_formLow10]

theorem DecodeEncode.bitstring (unused : BitVec 10) :
    DecodeEncode.Statement (.bitstring unused) := by
  intro _
  delta decode
  rw [show opcodeOf (word0 (.bitstring unused)) = 0x1F#6 from opcodeOf_formLow10 _ _]
  change Instr.bitstring (low10Of (formLow10 0x1F#6 unused)) = _
  rw [low10Of_formLow10]

theorem DecodeEncode.bv (disp9 : BitVec 9) :
    DecodeEncode.Statement (.bv disp9) := fun _ => decode_formBranch _ _ _

theorem DecodeEncode.bc (disp9 : BitVec 9) :
    DecodeEncode.Statement (.bc disp9) := fun _ => decode_formBranch _ _ _

theorem DecodeEncode.be (disp9 : BitVec 9) :
    DecodeEncode.Statement (.be disp9) := fun _ => decode_formBranch _ _ _

theorem DecodeEncode.bnh (disp9 : BitVec 9) :
    DecodeEncode.Statement (.bnh disp9) := fun _ => decode_formBranch _ _ _

theorem DecodeEncode.bn (disp9 : BitVec 9) :
    DecodeEncode.Statement (.bn disp9) := fun _ => decode_formBranch _ _ _

theorem DecodeEncode.br (disp9 : BitVec 9) :
    DecodeEncode.Statement (.br disp9) := fun _ => decode_formBranch _ _ _

theorem DecodeEncode.blt (disp9 : BitVec 9) :
    DecodeEncode.Statement (.blt disp9) := fun _ => decode_formBranch _ _ _

theorem DecodeEncode.ble (disp9 : BitVec 9) :
    DecodeEncode.Statement (.ble disp9) := fun _ => decode_formBranch _ _ _

theorem DecodeEncode.bnv (disp9 : BitVec 9) :
    DecodeEncode.Statement (.bnv disp9) := fun _ => decode_formBranch _ _ _

theorem DecodeEncode.bnc (disp9 : BitVec 9) :
    DecodeEncode.Statement (.bnc disp9) := fun _ => decode_formBranch _ _ _

theorem DecodeEncode.bne (disp9 : BitVec 9) :
    DecodeEncode.Statement (.bne disp9) := fun _ => decode_formBranch _ _ _

theorem DecodeEncode.bh (disp9 : BitVec 9) :
    DecodeEncode.Statement (.bh disp9) := fun _ => decode_formBranch _ _ _

theorem DecodeEncode.bp (disp9 : BitVec 9) :
    DecodeEncode.Statement (.bp disp9) := fun _ => decode_formBranch _ _ _

theorem DecodeEncode.nop (disp9 : BitVec 9) :
    DecodeEncode.Statement (.nop disp9) := fun _ => decode_formBranch _ _ _

theorem DecodeEncode.bge (disp9 : BitVec 9) :
    DecodeEncode.Statement (.bge disp9) := fun _ => decode_formBranch _ _ _

theorem DecodeEncode.bgt (disp9 : BitVec 9) :
    DecodeEncode.Statement (.bgt disp9) := fun _ => decode_formBranch _ _ _

theorem DecodeEncode.movea (imm16 : Half) (reg1 reg2 : Reg) :
    DecodeEncode.Statement (.movea imm16 reg1 reg2) := by
  intro _
  delta decode
  rw [show opcodeOf (word0 (.movea imm16 reg1 reg2)) = 0x28#6 from opcodeOf_formRegs _ _ _]
  change Instr.movea imm16 (reg1Of (formRegs 0x28#6 reg2 reg1)) (reg2Of (formRegs 0x28#6 reg2 reg1)) = _
  rw [reg1Of_formRegs, reg2Of_formRegs]

theorem DecodeEncode.addi (imm16 : Half) (reg1 reg2 : Reg) :
    DecodeEncode.Statement (.addi imm16 reg1 reg2) := by
  intro _
  delta decode
  rw [show opcodeOf (word0 (.addi imm16 reg1 reg2)) = 0x29#6 from opcodeOf_formRegs _ _ _]
  change Instr.addi imm16 (reg1Of (formRegs 0x29#6 reg2 reg1)) (reg2Of (formRegs 0x29#6 reg2 reg1)) = _
  rw [reg1Of_formRegs, reg2Of_formRegs]

theorem DecodeEncode.jr (disp26 : BitVec 26) :
    DecodeEncode.Statement (.jr disp26) := by
  intro _
  delta decode
  rw [show opcodeOf (word0 (.jr disp26)) = 0x2A#6 from opcodeOf_formLow10 _ _]
  change Instr.jr (low10Of (formLow10 0x2A#6 (disp26.extractLsb' 16 10)) ++ disp26.extractLsb' 0 16) = _
  rw [low10Of_formLow10, append_halves]

theorem DecodeEncode.jal (disp26 : BitVec 26) :
    DecodeEncode.Statement (.jal disp26) := by
  intro _
  delta decode
  rw [show opcodeOf (word0 (.jal disp26)) = 0x2B#6 from opcodeOf_formLow10 _ _]
  change Instr.jal (low10Of (formLow10 0x2B#6 (disp26.extractLsb' 16 10)) ++ disp26.extractLsb' 0 16) = _
  rw [low10Of_formLow10, append_halves]

theorem DecodeEncode.ori (imm16 : Half) (reg1 reg2 : Reg) :
    DecodeEncode.Statement (.ori imm16 reg1 reg2) := by
  intro _
  delta decode
  rw [show opcodeOf (word0 (.ori imm16 reg1 reg2)) = 0x2C#6 from opcodeOf_formRegs _ _ _]
  change Instr.ori imm16 (reg1Of (formRegs 0x2C#6 reg2 reg1)) (reg2Of (formRegs 0x2C#6 reg2 reg1)) = _
  rw [reg1Of_formRegs, reg2Of_formRegs]

theorem DecodeEncode.andi (imm16 : Half) (reg1 reg2 : Reg) :
    DecodeEncode.Statement (.andi imm16 reg1 reg2) := by
  intro _
  delta decode
  rw [show opcodeOf (word0 (.andi imm16 reg1 reg2)) = 0x2D#6 from opcodeOf_formRegs _ _ _]
  change Instr.andi imm16 (reg1Of (formRegs 0x2D#6 reg2 reg1)) (reg2Of (formRegs 0x2D#6 reg2 reg1)) = _
  rw [reg1Of_formRegs, reg2Of_formRegs]

theorem DecodeEncode.xori (imm16 : Half) (reg1 reg2 : Reg) :
    DecodeEncode.Statement (.xori imm16 reg1 reg2) := by
  intro _
  delta decode
  rw [show opcodeOf (word0 (.xori imm16 reg1 reg2)) = 0x2E#6 from opcodeOf_formRegs _ _ _]
  change Instr.xori imm16 (reg1Of (formRegs 0x2E#6 reg2 reg1)) (reg2Of (formRegs 0x2E#6 reg2 reg1)) = _
  rw [reg1Of_formRegs, reg2Of_formRegs]

theorem DecodeEncode.movhi (imm16 : Half) (reg1 reg2 : Reg) :
    DecodeEncode.Statement (.movhi imm16 reg1 reg2) := by
  intro _
  delta decode
  rw [show opcodeOf (word0 (.movhi imm16 reg1 reg2)) = 0x2F#6 from opcodeOf_formRegs _ _ _]
  change Instr.movhi imm16 (reg1Of (formRegs 0x2F#6 reg2 reg1)) (reg2Of (formRegs 0x2F#6 reg2 reg1)) = _
  rw [reg1Of_formRegs, reg2Of_formRegs]

theorem DecodeEncode.ldB (disp16 : Half) (reg1 reg2 : Reg) :
    DecodeEncode.Statement (.ldB disp16 reg1 reg2) := by
  intro _
  delta decode
  rw [show opcodeOf (word0 (.ldB disp16 reg1 reg2)) = 0x30#6 from opcodeOf_formRegs _ _ _]
  change Instr.ldB disp16 (reg1Of (formRegs 0x30#6 reg2 reg1)) (reg2Of (formRegs 0x30#6 reg2 reg1)) = _
  rw [reg1Of_formRegs, reg2Of_formRegs]

theorem DecodeEncode.ldH (disp16 : Half) (reg1 reg2 : Reg) :
    DecodeEncode.Statement (.ldH disp16 reg1 reg2) := by
  intro _
  delta decode
  rw [show opcodeOf (word0 (.ldH disp16 reg1 reg2)) = 0x31#6 from opcodeOf_formRegs _ _ _]
  change Instr.ldH disp16 (reg1Of (formRegs 0x31#6 reg2 reg1)) (reg2Of (formRegs 0x31#6 reg2 reg1)) = _
  rw [reg1Of_formRegs, reg2Of_formRegs]

theorem DecodeEncode.illegal32 (unused : BitVec 10) :
    DecodeEncode.Statement (.illegal32 unused) := by
  intro _
  delta decode
  rw [show opcodeOf (word0 (.illegal32 unused)) = 0x32#6 from opcodeOf_formLow10 _ _]
  change Instr.illegal32 (low10Of (formLow10 0x32#6 unused)) = _
  rw [low10Of_formLow10]

theorem DecodeEncode.ldW (disp16 : Half) (reg1 reg2 : Reg) :
    DecodeEncode.Statement (.ldW disp16 reg1 reg2) := by
  intro _
  delta decode
  rw [show opcodeOf (word0 (.ldW disp16 reg1 reg2)) = 0x33#6 from opcodeOf_formRegs _ _ _]
  change Instr.ldW disp16 (reg1Of (formRegs 0x33#6 reg2 reg1)) (reg2Of (formRegs 0x33#6 reg2 reg1)) = _
  rw [reg1Of_formRegs, reg2Of_formRegs]

theorem DecodeEncode.stB (reg2 : Reg) (disp16 : Half) (reg1 : Reg) :
    DecodeEncode.Statement (.stB reg2 disp16 reg1) := by
  intro _
  delta decode
  rw [show opcodeOf (word0 (.stB reg2 disp16 reg1)) = 0x34#6 from opcodeOf_formRegs _ _ _]
  change Instr.stB (reg2Of (formRegs 0x34#6 reg2 reg1)) disp16 (reg1Of (formRegs 0x34#6 reg2 reg1)) = _
  rw [reg1Of_formRegs, reg2Of_formRegs]

theorem DecodeEncode.stH (reg2 : Reg) (disp16 : Half) (reg1 : Reg) :
    DecodeEncode.Statement (.stH reg2 disp16 reg1) := by
  intro _
  delta decode
  rw [show opcodeOf (word0 (.stH reg2 disp16 reg1)) = 0x35#6 from opcodeOf_formRegs _ _ _]
  change Instr.stH (reg2Of (formRegs 0x35#6 reg2 reg1)) disp16 (reg1Of (formRegs 0x35#6 reg2 reg1)) = _
  rw [reg1Of_formRegs, reg2Of_formRegs]

theorem DecodeEncode.illegal36 (unused : BitVec 10) :
    DecodeEncode.Statement (.illegal36 unused) := by
  intro _
  delta decode
  rw [show opcodeOf (word0 (.illegal36 unused)) = 0x36#6 from opcodeOf_formLow10 _ _]
  change Instr.illegal36 (low10Of (formLow10 0x36#6 unused)) = _
  rw [low10Of_formLow10]

theorem DecodeEncode.stW (reg2 : Reg) (disp16 : Half) (reg1 : Reg) :
    DecodeEncode.Statement (.stW reg2 disp16 reg1) := by
  intro _
  delta decode
  rw [show opcodeOf (word0 (.stW reg2 disp16 reg1)) = 0x37#6 from opcodeOf_formRegs _ _ _]
  change Instr.stW (reg2Of (formRegs 0x37#6 reg2 reg1)) disp16 (reg1Of (formRegs 0x37#6 reg2 reg1)) = _
  rw [reg1Of_formRegs, reg2Of_formRegs]

theorem DecodeEncode.inB (disp16 : Half) (reg1 reg2 : Reg) :
    DecodeEncode.Statement (.inB disp16 reg1 reg2) := by
  intro _
  delta decode
  rw [show opcodeOf (word0 (.inB disp16 reg1 reg2)) = 0x38#6 from opcodeOf_formRegs _ _ _]
  change Instr.inB disp16 (reg1Of (formRegs 0x38#6 reg2 reg1)) (reg2Of (formRegs 0x38#6 reg2 reg1)) = _
  rw [reg1Of_formRegs, reg2Of_formRegs]

theorem DecodeEncode.inH (disp16 : Half) (reg1 reg2 : Reg) :
    DecodeEncode.Statement (.inH disp16 reg1 reg2) := by
  intro _
  delta decode
  rw [show opcodeOf (word0 (.inH disp16 reg1 reg2)) = 0x39#6 from opcodeOf_formRegs _ _ _]
  change Instr.inH disp16 (reg1Of (formRegs 0x39#6 reg2 reg1)) (reg2Of (formRegs 0x39#6 reg2 reg1)) = _
  rw [reg1Of_formRegs, reg2Of_formRegs]

theorem DecodeEncode.caxi (disp16 : Half) (reg1 reg2 : Reg) :
    DecodeEncode.Statement (.caxi disp16 reg1 reg2) := by
  intro _
  delta decode
  rw [show opcodeOf (word0 (.caxi disp16 reg1 reg2)) = 0x3A#6 from opcodeOf_formRegs _ _ _]
  change Instr.caxi disp16 (reg1Of (formRegs 0x3A#6 reg2 reg1)) (reg2Of (formRegs 0x3A#6 reg2 reg1)) = _
  rw [reg1Of_formRegs, reg2Of_formRegs]

theorem DecodeEncode.inW (disp16 : Half) (reg1 reg2 : Reg) :
    DecodeEncode.Statement (.inW disp16 reg1 reg2) := by
  intro _
  delta decode
  rw [show opcodeOf (word0 (.inW disp16 reg1 reg2)) = 0x3B#6 from opcodeOf_formRegs _ _ _]
  change Instr.inW disp16 (reg1Of (formRegs 0x3B#6 reg2 reg1)) (reg2Of (formRegs 0x3B#6 reg2 reg1)) = _
  rw [reg1Of_formRegs, reg2Of_formRegs]

theorem DecodeEncode.outB (reg2 : Reg) (disp16 : Half) (reg1 : Reg) :
    DecodeEncode.Statement (.outB reg2 disp16 reg1) := by
  intro _
  delta decode
  rw [show opcodeOf (word0 (.outB reg2 disp16 reg1)) = 0x3C#6 from opcodeOf_formRegs _ _ _]
  change Instr.outB (reg2Of (formRegs 0x3C#6 reg2 reg1)) disp16 (reg1Of (formRegs 0x3C#6 reg2 reg1)) = _
  rw [reg1Of_formRegs, reg2Of_formRegs]

theorem DecodeEncode.outH (reg2 : Reg) (disp16 : Half) (reg1 : Reg) :
    DecodeEncode.Statement (.outH reg2 disp16 reg1) := by
  intro _
  delta decode
  rw [show opcodeOf (word0 (.outH reg2 disp16 reg1)) = 0x3D#6 from opcodeOf_formRegs _ _ _]
  change Instr.outH (reg2Of (formRegs 0x3D#6 reg2 reg1)) disp16 (reg1Of (formRegs 0x3D#6 reg2 reg1)) = _
  rw [reg1Of_formRegs, reg2Of_formRegs]

theorem DecodeEncode.cmpfS (reg1 reg2 : Reg) (unused : BitVec 10) :
    DecodeEncode.Statement (.cmpfS reg1 reg2 unused) := fun _ => decode_formVII _ _ _ _

theorem DecodeEncode.cvtWS (reg1 reg2 : Reg) (unused : BitVec 10) :
    DecodeEncode.Statement (.cvtWS reg1 reg2 unused) := fun _ => decode_formVII _ _ _ _

theorem DecodeEncode.cvtSW (reg1 reg2 : Reg) (unused : BitVec 10) :
    DecodeEncode.Statement (.cvtSW reg1 reg2 unused) := fun _ => decode_formVII _ _ _ _

theorem DecodeEncode.addfS (reg1 reg2 : Reg) (unused : BitVec 10) :
    DecodeEncode.Statement (.addfS reg1 reg2 unused) := fun _ => decode_formVII _ _ _ _

theorem DecodeEncode.subfS (reg1 reg2 : Reg) (unused : BitVec 10) :
    DecodeEncode.Statement (.subfS reg1 reg2 unused) := fun _ => decode_formVII _ _ _ _

theorem DecodeEncode.mulfS (reg1 reg2 : Reg) (unused : BitVec 10) :
    DecodeEncode.Statement (.mulfS reg1 reg2 unused) := fun _ => decode_formVII _ _ _ _

theorem DecodeEncode.divfS (reg1 reg2 : Reg) (unused : BitVec 10) :
    DecodeEncode.Statement (.divfS reg1 reg2 unused) := fun _ => decode_formVII _ _ _ _

theorem DecodeEncode.xb (reg1 reg2 : Reg) (unused : BitVec 10) :
    DecodeEncode.Statement (.xb reg1 reg2 unused) := fun _ => decode_formVII _ _ _ _

theorem DecodeEncode.xh (reg1 reg2 : Reg) (unused : BitVec 10) :
    DecodeEncode.Statement (.xh reg1 reg2 unused) := fun _ => decode_formVII _ _ _ _

theorem DecodeEncode.rev (reg1 reg2 : Reg) (unused : BitVec 10) :
    DecodeEncode.Statement (.rev reg1 reg2 unused) := fun _ => decode_formVII _ _ _ _

theorem DecodeEncode.trncSW (reg1 reg2 : Reg) (unused : BitVec 10) :
    DecodeEncode.Statement (.trncSW reg1 reg2 unused) := fun _ => decode_formVII _ _ _ _

theorem DecodeEncode.mpyhw (reg1 reg2 : Reg) (unused : BitVec 10) :
    DecodeEncode.Statement (.mpyhw reg1 reg2 unused) := fun _ => decode_formVII _ _ _ _

theorem DecodeEncode.illegal3E01 (reg1 reg2 : Reg) (unused : BitVec 10) :
    DecodeEncode.Statement (.illegal3E01 reg1 reg2 unused) := fun _ => decode_formVII _ _ _ _

theorem DecodeEncode.illegal3E0D (reg1 reg2 : Reg) (unused : BitVec 10) :
    DecodeEncode.Statement (.illegal3E0D reg1 reg2 unused) := fun _ => decode_formVII _ _ _ _

theorem DecodeEncode.illegal3E0E (reg1 reg2 : Reg) (sub : BitVec 6) (unused : BitVec 10) :
    DecodeEncode.Statement (.illegal3E0E reg1 reg2 sub unused) := by
  intro h
  refine (decode_formVII _ _ _ _).trans ?_
  revert h
  revert sub
  exact sub_illegal3E0E reg1 reg2 unused

theorem DecodeEncode.illegal3E10 (reg1 reg2 : Reg) (sub : BitVec 6) (unused : BitVec 10) :
    DecodeEncode.Statement (.illegal3E10 reg1 reg2 sub unused) := by
  intro h
  refine (decode_formVII _ _ _ _).trans ?_
  revert h
  revert sub
  exact sub_illegal3E10 reg1 reg2 unused

theorem DecodeEncode.illegal3E20 (reg1 reg2 : Reg) (sub : BitVec 6) (unused : BitVec 10) :
    DecodeEncode.Statement (.illegal3E20 reg1 reg2 sub unused) := by
  intro h
  refine (decode_formVII _ _ _ _).trans ?_
  revert h
  revert sub
  exact sub_illegal3E20 reg1 reg2 unused

theorem DecodeEncode.outW (reg2 : Reg) (disp16 : Half) (reg1 : Reg) :
    DecodeEncode.Statement (.outW reg2 disp16 reg1) := by
  intro _
  delta decode
  rw [show opcodeOf (word0 (.outW reg2 disp16 reg1)) = 0x3F#6 from opcodeOf_formRegs _ _ _]
  change Instr.outW (reg2Of (formRegs 0x3F#6 reg2 reg1)) disp16 (reg1Of (formRegs 0x3F#6 reg2 reg1)) = _
  rw [reg1Of_formRegs, reg2Of_formRegs]

/-- The length the decoder reads from the first half-word is that of the encoding (R142). -/
def EncodedLength.Statement (i : Instr) : Prop := instrLength (word0 i) = 2 * (encode i).length

/-- The length by the primary opcode. -/
theorem instrLength_of {w0 : Half} {k : BitVec 6} (h : opcodeOf w0 = k) :
    instrLength w0 = if k.toNat < 0x28 then 2 else if k = 0x32#6 ∨ k = 0x36#6 then 2 else 4 := by
  delta instrLength
  rw [h]

/-- A branch word is 2 bytes long (R142). -/
theorem instrLength_formBranch (c : BitVec 4) (d : BitVec 9) : instrLength (formBranch c d) = 2 := by
  have h4 : (opcodeOf (formBranch c d)).getLsbD 4 = false := by
    rw [opcodeOf, BitVec.getLsbD_extractLsb', getLsbD_formBranch]; rfl
  have h3 : (opcodeOf (formBranch c d)).getLsbD 3 = false := by
    rw [opcodeOf, BitVec.getLsbD_extractLsb', getLsbD_formBranch]; rfl
  delta instrLength
  revert h3 h4
  generalize opcodeOf (formBranch c d) = k
  revert k
  decide

theorem EncodedLength.mov (reg1 reg2 : Reg) :
    EncodedLength.Statement (.mov reg1 reg2) := instrLength_of (opcodeOf_formRegs 0x00#6 _ _)

theorem EncodedLength.add (reg1 reg2 : Reg) :
    EncodedLength.Statement (.add reg1 reg2) := instrLength_of (opcodeOf_formRegs 0x01#6 _ _)

theorem EncodedLength.sub (reg1 reg2 : Reg) :
    EncodedLength.Statement (.sub reg1 reg2) := instrLength_of (opcodeOf_formRegs 0x02#6 _ _)

theorem EncodedLength.cmp (reg1 reg2 : Reg) :
    EncodedLength.Statement (.cmp reg1 reg2) := instrLength_of (opcodeOf_formRegs 0x03#6 _ _)

theorem EncodedLength.shl (reg1 reg2 : Reg) :
    EncodedLength.Statement (.shl reg1 reg2) := instrLength_of (opcodeOf_formRegs 0x04#6 _ _)

theorem EncodedLength.shr (reg1 reg2 : Reg) :
    EncodedLength.Statement (.shr reg1 reg2) := instrLength_of (opcodeOf_formRegs 0x05#6 _ _)

theorem EncodedLength.jmp (reg1 : Reg) (unused : BitVec 5) :
    EncodedLength.Statement (.jmp reg1 unused) := instrLength_of (opcodeOf_formRegs 0x06#6 _ _)

theorem EncodedLength.sar (reg1 reg2 : Reg) :
    EncodedLength.Statement (.sar reg1 reg2) := instrLength_of (opcodeOf_formRegs 0x07#6 _ _)

theorem EncodedLength.mul (reg1 reg2 : Reg) :
    EncodedLength.Statement (.mul reg1 reg2) := instrLength_of (opcodeOf_formRegs 0x08#6 _ _)

theorem EncodedLength.div (reg1 reg2 : Reg) :
    EncodedLength.Statement (.div reg1 reg2) := instrLength_of (opcodeOf_formRegs 0x09#6 _ _)

theorem EncodedLength.mulu (reg1 reg2 : Reg) :
    EncodedLength.Statement (.mulu reg1 reg2) := instrLength_of (opcodeOf_formRegs 0x0A#6 _ _)

theorem EncodedLength.divu (reg1 reg2 : Reg) :
    EncodedLength.Statement (.divu reg1 reg2) := instrLength_of (opcodeOf_formRegs 0x0B#6 _ _)

theorem EncodedLength.or (reg1 reg2 : Reg) :
    EncodedLength.Statement (.or reg1 reg2) := instrLength_of (opcodeOf_formRegs 0x0C#6 _ _)

theorem EncodedLength.and (reg1 reg2 : Reg) :
    EncodedLength.Statement (.and reg1 reg2) := instrLength_of (opcodeOf_formRegs 0x0D#6 _ _)

theorem EncodedLength.xor (reg1 reg2 : Reg) :
    EncodedLength.Statement (.xor reg1 reg2) := instrLength_of (opcodeOf_formRegs 0x0E#6 _ _)

theorem EncodedLength.not (reg1 reg2 : Reg) :
    EncodedLength.Statement (.not reg1 reg2) := instrLength_of (opcodeOf_formRegs 0x0F#6 _ _)

theorem EncodedLength.movImm (imm5 : BitVec 5) (reg2 : Reg) :
    EncodedLength.Statement (.movImm imm5 reg2) := instrLength_of (opcodeOf_formRegs 0x10#6 _ _)

theorem EncodedLength.addImm (imm5 : BitVec 5) (reg2 : Reg) :
    EncodedLength.Statement (.addImm imm5 reg2) := instrLength_of (opcodeOf_formRegs 0x11#6 _ _)

theorem EncodedLength.setf (unused : BitVec 1) (cond4 : BitVec 4) (reg2 : Reg) :
    EncodedLength.Statement (.setf unused cond4 reg2) := instrLength_of (opcodeOf_formRegs 0x12#6 _ _)

theorem EncodedLength.cmpImm (imm5 : BitVec 5) (reg2 : Reg) :
    EncodedLength.Statement (.cmpImm imm5 reg2) := instrLength_of (opcodeOf_formRegs 0x13#6 _ _)

theorem EncodedLength.shlImm (imm5 : BitVec 5) (reg2 : Reg) :
    EncodedLength.Statement (.shlImm imm5 reg2) := instrLength_of (opcodeOf_formRegs 0x14#6 _ _)

theorem EncodedLength.shrImm (imm5 : BitVec 5) (reg2 : Reg) :
    EncodedLength.Statement (.shrImm imm5 reg2) := instrLength_of (opcodeOf_formRegs 0x15#6 _ _)

theorem EncodedLength.cli (unused : BitVec 10) :
    EncodedLength.Statement (.cli unused) := instrLength_of (opcodeOf_formLow10 0x16#6 _)

theorem EncodedLength.sarImm (imm5 : BitVec 5) (reg2 : Reg) :
    EncodedLength.Statement (.sarImm imm5 reg2) := instrLength_of (opcodeOf_formRegs 0x17#6 _ _)

theorem EncodedLength.trap (vector : BitVec 5) (unused : BitVec 5) :
    EncodedLength.Statement (.trap vector unused) := instrLength_of (opcodeOf_formRegs 0x18#6 _ _)

theorem EncodedLength.reti (unused : BitVec 10) :
    EncodedLength.Statement (.reti unused) := instrLength_of (opcodeOf_formLow10 0x19#6 _)

theorem EncodedLength.halt (unused : BitVec 10) :
    EncodedLength.Statement (.halt unused) := instrLength_of (opcodeOf_formLow10 0x1A#6 _)

theorem EncodedLength.illegal1B (unused : BitVec 10) :
    EncodedLength.Statement (.illegal1B unused) := instrLength_of (opcodeOf_formLow10 0x1B#6 _)

theorem EncodedLength.ldsr (reg2 : Reg) (regID : SysReg) :
    EncodedLength.Statement (.ldsr reg2 regID) := instrLength_of (opcodeOf_formRegs 0x1C#6 _ _)

theorem EncodedLength.stsr (regID : SysReg) (reg2 : Reg) :
    EncodedLength.Statement (.stsr regID reg2) := instrLength_of (opcodeOf_formRegs 0x1D#6 _ _)

theorem EncodedLength.sei (unused : BitVec 10) :
    EncodedLength.Statement (.sei unused) := instrLength_of (opcodeOf_formLow10 0x1E#6 _)

theorem EncodedLength.bitstring (unused : BitVec 10) :
    EncodedLength.Statement (.bitstring unused) := instrLength_of (opcodeOf_formLow10 0x1F#6 _)

theorem EncodedLength.bv (disp9 : BitVec 9) :
    EncodedLength.Statement (.bv disp9) := instrLength_formBranch _ _

theorem EncodedLength.bc (disp9 : BitVec 9) :
    EncodedLength.Statement (.bc disp9) := instrLength_formBranch _ _

theorem EncodedLength.be (disp9 : BitVec 9) :
    EncodedLength.Statement (.be disp9) := instrLength_formBranch _ _

theorem EncodedLength.bnh (disp9 : BitVec 9) :
    EncodedLength.Statement (.bnh disp9) := instrLength_formBranch _ _

theorem EncodedLength.bn (disp9 : BitVec 9) :
    EncodedLength.Statement (.bn disp9) := instrLength_formBranch _ _

theorem EncodedLength.br (disp9 : BitVec 9) :
    EncodedLength.Statement (.br disp9) := instrLength_formBranch _ _

theorem EncodedLength.blt (disp9 : BitVec 9) :
    EncodedLength.Statement (.blt disp9) := instrLength_formBranch _ _

theorem EncodedLength.ble (disp9 : BitVec 9) :
    EncodedLength.Statement (.ble disp9) := instrLength_formBranch _ _

theorem EncodedLength.bnv (disp9 : BitVec 9) :
    EncodedLength.Statement (.bnv disp9) := instrLength_formBranch _ _

theorem EncodedLength.bnc (disp9 : BitVec 9) :
    EncodedLength.Statement (.bnc disp9) := instrLength_formBranch _ _

theorem EncodedLength.bne (disp9 : BitVec 9) :
    EncodedLength.Statement (.bne disp9) := instrLength_formBranch _ _

theorem EncodedLength.bh (disp9 : BitVec 9) :
    EncodedLength.Statement (.bh disp9) := instrLength_formBranch _ _

theorem EncodedLength.bp (disp9 : BitVec 9) :
    EncodedLength.Statement (.bp disp9) := instrLength_formBranch _ _

theorem EncodedLength.nop (disp9 : BitVec 9) :
    EncodedLength.Statement (.nop disp9) := instrLength_formBranch _ _

theorem EncodedLength.bge (disp9 : BitVec 9) :
    EncodedLength.Statement (.bge disp9) := instrLength_formBranch _ _

theorem EncodedLength.bgt (disp9 : BitVec 9) :
    EncodedLength.Statement (.bgt disp9) := instrLength_formBranch _ _

theorem EncodedLength.movea (imm16 : Half) (reg1 reg2 : Reg) :
    EncodedLength.Statement (.movea imm16 reg1 reg2) := instrLength_of (opcodeOf_formRegs 0x28#6 _ _)

theorem EncodedLength.addi (imm16 : Half) (reg1 reg2 : Reg) :
    EncodedLength.Statement (.addi imm16 reg1 reg2) := instrLength_of (opcodeOf_formRegs 0x29#6 _ _)

theorem EncodedLength.jr (disp26 : BitVec 26) :
    EncodedLength.Statement (.jr disp26) := instrLength_of (opcodeOf_formLow10 0x2A#6 _)

theorem EncodedLength.jal (disp26 : BitVec 26) :
    EncodedLength.Statement (.jal disp26) := instrLength_of (opcodeOf_formLow10 0x2B#6 _)

theorem EncodedLength.ori (imm16 : Half) (reg1 reg2 : Reg) :
    EncodedLength.Statement (.ori imm16 reg1 reg2) := instrLength_of (opcodeOf_formRegs 0x2C#6 _ _)

theorem EncodedLength.andi (imm16 : Half) (reg1 reg2 : Reg) :
    EncodedLength.Statement (.andi imm16 reg1 reg2) := instrLength_of (opcodeOf_formRegs 0x2D#6 _ _)

theorem EncodedLength.xori (imm16 : Half) (reg1 reg2 : Reg) :
    EncodedLength.Statement (.xori imm16 reg1 reg2) := instrLength_of (opcodeOf_formRegs 0x2E#6 _ _)

theorem EncodedLength.movhi (imm16 : Half) (reg1 reg2 : Reg) :
    EncodedLength.Statement (.movhi imm16 reg1 reg2) := instrLength_of (opcodeOf_formRegs 0x2F#6 _ _)

theorem EncodedLength.ldB (disp16 : Half) (reg1 reg2 : Reg) :
    EncodedLength.Statement (.ldB disp16 reg1 reg2) := instrLength_of (opcodeOf_formRegs 0x30#6 _ _)

theorem EncodedLength.ldH (disp16 : Half) (reg1 reg2 : Reg) :
    EncodedLength.Statement (.ldH disp16 reg1 reg2) := instrLength_of (opcodeOf_formRegs 0x31#6 _ _)

theorem EncodedLength.illegal32 (unused : BitVec 10) :
    EncodedLength.Statement (.illegal32 unused) := instrLength_of (opcodeOf_formLow10 0x32#6 _)

theorem EncodedLength.ldW (disp16 : Half) (reg1 reg2 : Reg) :
    EncodedLength.Statement (.ldW disp16 reg1 reg2) := instrLength_of (opcodeOf_formRegs 0x33#6 _ _)

theorem EncodedLength.stB (reg2 : Reg) (disp16 : Half) (reg1 : Reg) :
    EncodedLength.Statement (.stB reg2 disp16 reg1) := instrLength_of (opcodeOf_formRegs 0x34#6 _ _)

theorem EncodedLength.stH (reg2 : Reg) (disp16 : Half) (reg1 : Reg) :
    EncodedLength.Statement (.stH reg2 disp16 reg1) := instrLength_of (opcodeOf_formRegs 0x35#6 _ _)

theorem EncodedLength.illegal36 (unused : BitVec 10) :
    EncodedLength.Statement (.illegal36 unused) := instrLength_of (opcodeOf_formLow10 0x36#6 _)

theorem EncodedLength.stW (reg2 : Reg) (disp16 : Half) (reg1 : Reg) :
    EncodedLength.Statement (.stW reg2 disp16 reg1) := instrLength_of (opcodeOf_formRegs 0x37#6 _ _)

theorem EncodedLength.inB (disp16 : Half) (reg1 reg2 : Reg) :
    EncodedLength.Statement (.inB disp16 reg1 reg2) := instrLength_of (opcodeOf_formRegs 0x38#6 _ _)

theorem EncodedLength.inH (disp16 : Half) (reg1 reg2 : Reg) :
    EncodedLength.Statement (.inH disp16 reg1 reg2) := instrLength_of (opcodeOf_formRegs 0x39#6 _ _)

theorem EncodedLength.caxi (disp16 : Half) (reg1 reg2 : Reg) :
    EncodedLength.Statement (.caxi disp16 reg1 reg2) := instrLength_of (opcodeOf_formRegs 0x3A#6 _ _)

theorem EncodedLength.inW (disp16 : Half) (reg1 reg2 : Reg) :
    EncodedLength.Statement (.inW disp16 reg1 reg2) := instrLength_of (opcodeOf_formRegs 0x3B#6 _ _)

theorem EncodedLength.outB (reg2 : Reg) (disp16 : Half) (reg1 : Reg) :
    EncodedLength.Statement (.outB reg2 disp16 reg1) := instrLength_of (opcodeOf_formRegs 0x3C#6 _ _)

theorem EncodedLength.outH (reg2 : Reg) (disp16 : Half) (reg1 : Reg) :
    EncodedLength.Statement (.outH reg2 disp16 reg1) := instrLength_of (opcodeOf_formRegs 0x3D#6 _ _)

theorem EncodedLength.cmpfS (reg1 reg2 : Reg) (unused : BitVec 10) :
    EncodedLength.Statement (.cmpfS reg1 reg2 unused) := instrLength_of (opcodeOf_formRegs 0x3E#6 _ _)

theorem EncodedLength.cvtWS (reg1 reg2 : Reg) (unused : BitVec 10) :
    EncodedLength.Statement (.cvtWS reg1 reg2 unused) := instrLength_of (opcodeOf_formRegs 0x3E#6 _ _)

theorem EncodedLength.cvtSW (reg1 reg2 : Reg) (unused : BitVec 10) :
    EncodedLength.Statement (.cvtSW reg1 reg2 unused) := instrLength_of (opcodeOf_formRegs 0x3E#6 _ _)

theorem EncodedLength.addfS (reg1 reg2 : Reg) (unused : BitVec 10) :
    EncodedLength.Statement (.addfS reg1 reg2 unused) := instrLength_of (opcodeOf_formRegs 0x3E#6 _ _)

theorem EncodedLength.subfS (reg1 reg2 : Reg) (unused : BitVec 10) :
    EncodedLength.Statement (.subfS reg1 reg2 unused) := instrLength_of (opcodeOf_formRegs 0x3E#6 _ _)

theorem EncodedLength.mulfS (reg1 reg2 : Reg) (unused : BitVec 10) :
    EncodedLength.Statement (.mulfS reg1 reg2 unused) := instrLength_of (opcodeOf_formRegs 0x3E#6 _ _)

theorem EncodedLength.divfS (reg1 reg2 : Reg) (unused : BitVec 10) :
    EncodedLength.Statement (.divfS reg1 reg2 unused) := instrLength_of (opcodeOf_formRegs 0x3E#6 _ _)

theorem EncodedLength.xb (reg1 reg2 : Reg) (unused : BitVec 10) :
    EncodedLength.Statement (.xb reg1 reg2 unused) := instrLength_of (opcodeOf_formRegs 0x3E#6 _ _)

theorem EncodedLength.xh (reg1 reg2 : Reg) (unused : BitVec 10) :
    EncodedLength.Statement (.xh reg1 reg2 unused) := instrLength_of (opcodeOf_formRegs 0x3E#6 _ _)

theorem EncodedLength.rev (reg1 reg2 : Reg) (unused : BitVec 10) :
    EncodedLength.Statement (.rev reg1 reg2 unused) := instrLength_of (opcodeOf_formRegs 0x3E#6 _ _)

theorem EncodedLength.trncSW (reg1 reg2 : Reg) (unused : BitVec 10) :
    EncodedLength.Statement (.trncSW reg1 reg2 unused) := instrLength_of (opcodeOf_formRegs 0x3E#6 _ _)

theorem EncodedLength.mpyhw (reg1 reg2 : Reg) (unused : BitVec 10) :
    EncodedLength.Statement (.mpyhw reg1 reg2 unused) := instrLength_of (opcodeOf_formRegs 0x3E#6 _ _)

theorem EncodedLength.illegal3E01 (reg1 reg2 : Reg) (unused : BitVec 10) :
    EncodedLength.Statement (.illegal3E01 reg1 reg2 unused) := instrLength_of (opcodeOf_formRegs 0x3E#6 _ _)

theorem EncodedLength.illegal3E0D (reg1 reg2 : Reg) (unused : BitVec 10) :
    EncodedLength.Statement (.illegal3E0D reg1 reg2 unused) := instrLength_of (opcodeOf_formRegs 0x3E#6 _ _)

theorem EncodedLength.illegal3E0E (reg1 reg2 : Reg) (sub : BitVec 6) (unused : BitVec 10) :
    EncodedLength.Statement (.illegal3E0E reg1 reg2 sub unused) := instrLength_of (opcodeOf_formRegs 0x3E#6 _ _)

theorem EncodedLength.illegal3E10 (reg1 reg2 : Reg) (sub : BitVec 6) (unused : BitVec 10) :
    EncodedLength.Statement (.illegal3E10 reg1 reg2 sub unused) := instrLength_of (opcodeOf_formRegs 0x3E#6 _ _)

theorem EncodedLength.illegal3E20 (reg1 reg2 : Reg) (sub : BitVec 6) (unused : BitVec 10) :
    EncodedLength.Statement (.illegal3E20 reg1 reg2 sub unused) := instrLength_of (opcodeOf_formRegs 0x3E#6 _ _)

theorem EncodedLength.outW (reg2 : Reg) (disp16 : Half) (reg1 : Reg) :
    EncodedLength.Statement (.outW reg2 disp16 reg1) := instrLength_of (opcodeOf_formRegs 0x3F#6 _ _)

end Sys2Proof.Laws
end

