-- ==== Sys2Proof/Tests/Slice0.lean ====
section
/-! SUPPORT. Tests: the checks of WellFormed, the words of every constructor, one step of every instruction on the vectors
of spec/95_test_vectors.md (the expected results are the spec's), the entries of its section 2.11, and a witness for the
hypotheses of every statement that has some. -/

namespace Sys2Proof.Tests

open Sys2Proof Sys2Proof.Machine

/-! ### WellFormed refuses what is no instruction word -/

theorem test_illegal3E0E_refused :
    (Instr.illegal3E0E 1#5 2#5 0x0D#6 0#10).wellFormed = false ∧
      (Instr.illegal3E0E 1#5 2#5 0x10#6 0#10).wellFormed = false := by decide

theorem test_illegal3E10_refused :
    (Instr.illegal3E10 1#5 2#5 0x0F#6 0#10).wellFormed = false ∧
      (Instr.illegal3E10 1#5 2#5 0x20#6 0#10).wellFormed = false := by decide

theorem test_illegal3E20_refused : (Instr.illegal3E20 1#5 2#5 0x1F#6 0#10).wellFormed = false := by decide

/-! ### Words of every constructor (30_encoding.md R144 to R157; the rules' own encodings and 95_test_vectors.md 2.1) -/

theorem test_decode_formatI :
    decode 0x0041#16 0#16 = .mov 1#5 2#5 ∧
    decode 0x0441#16 0#16 = .add 1#5 2#5 ∧
    decode 0x0841#16 0#16 = .sub 1#5 2#5 ∧
    decode 0x0C41#16 0#16 = .cmp 1#5 2#5 ∧
    decode 0x1041#16 0#16 = .shl 1#5 2#5 ∧
    decode 0x1441#16 0#16 = .shr 1#5 2#5 ∧
    decode 0x1BE1#16 0#16 = .jmp 1#5 31#5 ∧
    decode 0x1C41#16 0#16 = .sar 1#5 2#5 ∧
    decode 0x23C1#16 0#16 = .mul 1#5 30#5 ∧
    decode 0x2441#16 0#16 = .div 1#5 2#5 ∧
    decode 0x2841#16 0#16 = .mulu 1#5 2#5 ∧
    decode 0x2C41#16 0#16 = .divu 1#5 2#5 ∧
    decode 0x3041#16 0#16 = .or 1#5 2#5 ∧
    decode 0x3441#16 0#16 = .and 1#5 2#5 ∧
    decode 0x3841#16 0#16 = .xor 1#5 2#5 ∧
    decode 0x3C41#16 0#16 = .not 1#5 2#5 := by decide

theorem test_decode_formatII :
    decode 0x405F#16 0#16 = .movImm 0x1F#5 2#5 ∧
    decode 0x4450#16 0#16 = .addImm 0x10#5 2#5 ∧
    decode 0x4852#16 0#16 = .setf 1#1 2#4 2#5 ∧
    decode 0x4C41#16 0#16 = .cmpImm 1#5 2#5 ∧
    decode 0x5044#16 0#16 = .shlImm 4#5 2#5 ∧
    decode 0x5441#16 0#16 = .shrImm 1#5 2#5 ∧
    decode 0x5BFF#16 0#16 = .cli 0x3FF#10 ∧
    decode 0x5C50#16 0#16 = .sarImm 16#5 2#5 ∧
    decode 0x63F2#16 0#16 = .trap 18#5 31#5 ∧
    decode 0x6400#16 0#16 = .reti 0#10 ∧
    decode 0x6800#16 0#16 = .halt 0#10 ∧
    decode 0x7045#16 0#16 = .ldsr 2#5 5#5 ∧
    decode 0x7458#16 0#16 = .stsr 24#5 2#5 ∧
    decode 0x7800#16 0#16 = .sei 0#10 := by decide

theorem test_decode_formatIII :
    decode 0x81FC#16 0#16 = .bv 0x1FC#9 ∧
    decode 0x83FC#16 0#16 = .bc 0x1FC#9 ∧
    decode 0x85FC#16 0#16 = .be 0x1FC#9 ∧
    decode 0x87FC#16 0#16 = .bnh 0x1FC#9 ∧
    decode 0x89FC#16 0#16 = .bn 0x1FC#9 ∧
    decode 0x8BFC#16 0#16 = .br 0x1FC#9 ∧
    decode 0x8DFC#16 0#16 = .blt 0x1FC#9 ∧
    decode 0x8FFC#16 0#16 = .ble 0x1FC#9 ∧
    decode 0x91FC#16 0#16 = .bnv 0x1FC#9 ∧
    decode 0x93FC#16 0#16 = .bnc 0x1FC#9 ∧
    decode 0x95FC#16 0#16 = .bne 0x1FC#9 ∧
    decode 0x97FC#16 0#16 = .bh 0x1FC#9 ∧
    decode 0x99FC#16 0#16 = .bp 0x1FC#9 ∧
    decode 0x9BFC#16 0#16 = .nop 0x1FC#9 ∧
    decode 0x9DFC#16 0#16 = .bge 0x1FC#9 ∧
    decode 0x9FFC#16 0#16 = .bgt 0x1FC#9 := by decide

theorem test_decode_formatIV :
    decode 0xA9FF#16 0xFFFE#16 = .jr 0x1FFFFFE#26 ∧
    decode 0xAFFF#16 0xFFF0#16 = .jal 0x3FFFFF0#26 := by decide

theorem test_decode_formatV :
    decode 0xA041#16 0x8000#16 = .movea 0x8000#16 1#5 2#5 ∧
    decode 0xA441#16 0x7FFF#16 = .addi 0x7FFF#16 1#5 2#5 ∧
    decode 0xB042#16 0xAABB#16 = .ori 0xAABB#16 2#5 2#5 ∧
    decode 0xB441#16 0xFF00#16 = .andi 0xFF00#16 1#5 2#5 ∧
    decode 0xB821#16 0x00FF#16 = .xori 0x00FF#16 1#5 1#5 ∧
    decode 0xBC40#16 0x0500#16 = .movhi 0x0500#16 0#5 2#5 := by decide

theorem test_decode_formatVI :
    decode 0xC041#16 0x0100#16 = .ldB 0x0100#16 1#5 2#5 ∧
    decode 0xC441#16 0x0101#16 = .ldH 0x0101#16 1#5 2#5 ∧
    decode 0xCC41#16 0xFFFE#16 = .ldW 0xFFFE#16 1#5 2#5 ∧
    decode 0xD041#16 0x0100#16 = .stB 2#5 0x0100#16 1#5 ∧
    decode 0xD441#16 0x0101#16 = .stH 2#5 0x0101#16 1#5 ∧
    decode 0xDC40#16 0xFFF0#16 = .stW 2#5 0xFFF0#16 0#5 ∧
    decode 0xE041#16 0x0003#16 = .inB 0x0003#16 1#5 2#5 ∧
    decode 0xE441#16 0x0002#16 = .inH 0x0002#16 1#5 2#5 ∧
    decode 0xEBC1#16 0x0000#16 = .caxi 0x0000#16 1#5 30#5 ∧
    decode 0xEC41#16 0xFFFC#16 = .inW 0xFFFC#16 1#5 2#5 ∧
    decode 0xF041#16 0x0000#16 = .outB 2#5 0x0000#16 1#5 ∧
    decode 0xF441#16 0x0001#16 = .outH 2#5 0x0001#16 1#5 ∧
    decode 0xFC41#16 0x8000#16 = .outW 2#5 0x8000#16 1#5 := by decide

theorem test_decode_formatVII :
    decode 0xF841#16 0x0000#16 = .cmpfS 1#5 2#5 0#10 ∧
    decode 0xF841#16 0x0800#16 = .cvtWS 1#5 2#5 0#10 ∧
    decode 0xF841#16 0x0C00#16 = .cvtSW 1#5 2#5 0#10 ∧
    decode 0xF841#16 0x1000#16 = .addfS 1#5 2#5 0#10 ∧
    decode 0xF841#16 0x1400#16 = .subfS 1#5 2#5 0#10 ∧
    decode 0xF841#16 0x1800#16 = .mulfS 1#5 2#5 0#10 ∧
    decode 0xF841#16 0x1C00#16 = .divfS 1#5 2#5 0#10 ∧
    decode 0xF841#16 0x2000#16 = .xb 1#5 2#5 0#10 ∧
    decode 0xF841#16 0x2400#16 = .xh 1#5 2#5 0#10 ∧
    decode 0xF841#16 0x2800#16 = .rev 1#5 2#5 0#10 ∧
    decode 0xF841#16 0x2C00#16 = .trncSW 1#5 2#5 0#10 ∧
    decode 0xF841#16 0x33FF#16 = .mpyhw 1#5 2#5 0x3FF#10 := by decide

theorem test_decode_refused_and_illegal :
    decode 0x7C0B#16 0#16 = .bitstring 0x0B#10 ∧
    decode 0x6C00#16 0#16 = .illegal1B 0#10 ∧
    decode 0xC800#16 0#16 = .illegal32 0#10 ∧
    decode 0xD800#16 0#16 = .illegal36 0#10 ∧
    decode 0xF841#16 0x0400#16 = .illegal3E01 1#5 2#5 0#10 ∧
    decode 0xF841#16 0x3400#16 = .illegal3E0D 1#5 2#5 0#10 ∧
    decode 0xF841#16 0x3800#16 = .illegal3E0E 1#5 2#5 0x0E#6 0#10 ∧
    decode 0xF841#16 0x3C00#16 = .illegal3E0E 1#5 2#5 0x0F#6 0#10 ∧
    decode 0xF841#16 0x4000#16 = .illegal3E10 1#5 2#5 0x10#6 0#10 ∧
    decode 0xF841#16 0x7C00#16 = .illegal3E10 1#5 2#5 0x1F#6 0#10 ∧
    decode 0xF841#16 0x8000#16 = .illegal3E20 1#5 2#5 0x20#6 0#10 ∧
    decode 0xF841#16 0xFC00#16 = .illegal3E20 1#5 2#5 0x3F#6 0#10 := by decide

/-- `ADD r1, r2`, low byte first (20_memory.md R106); a list that ends inside an instruction is refused by name. -/
theorem test_decodeBytes :
    decodeBytes [0x41#8, 0x04#8] = .ok (.add 1#5 2#5) ∧ decodeBytes [0xFF#8, 0xAF#8, 0xF0#8, 0xFF#8] = .ok (.jal 0x3FFFFF0#26) ∧
      decodeBytes [0x41#8] = .error .noFirstHalf ∧ decodeBytes [0xFF#8, 0xAF#8, 0xF0#8] = .error .noSecondHalf := by decide

/-- The host's numbering: the second half-word is bits 31..16. -/
theorem test_decodeTableWord :
    decodeTableWord 16 0x0441 = some (.add 1#5 2#5) ∧ decodeTableWord 32 0xFFF0AFFF = some (.jal 0x3FFFFF0#26) := by decide

/-! ### One step, on the vectors of 95_test_vectors.md -/

/-- The machine of section 2's conventions, with three registers and the PSW given. -/
def start (psw x1 x2 x30 : Word) : State :=
  { State.reset with
    regs := (((Vector.replicate 32 0#32).set 1 x1).set 2 x2).set 30 x30
    pc := 0x05000000#32, psw := psw }

/-- `s` with the instruction `w0 w1` at its `pc`. -/
def placed (s : State) (w0 w1 : Half) : State := s.withFetchWord 32 (w0.toNat + 65536 * w1.toNat)

/-- A row of a table: what is there before (registers 1, 2, 30 and a word of working RAM), the instruction, and what is
there after (registers 1, 2, 30, 31, the word, the PSW, `pc`, the cycles). -/
structure Row where
  psw : Word
  x1 : Word
  x2 : Word
  x30 : Word
  offset : Nat
  word : Word
  w0 : Half
  w1 : Half
  x1' : Word
  x2' : Word
  x30' : Word
  x31' : Word
  word' : Word
  psw' : Word
  pc' : Word
  cycles : Nat

/-- The row's step ends as the row says, and register 0 reads 0. -/
def Row.holds (r : Row) : Bool :=
  match step (placed { start r.psw r.x1 r.x2 r.x30 with
      mem := writeBytes [] 0x05000000 r.offset 0x10000 r.word 4 } r.w0 r.w1) with
  | .next t =>
    decide (t.reg 0#5 = 0#32 ∧ t.reg 1#5 = r.x1' ∧ t.reg 2#5 = r.x2' ∧ t.reg 30#5 = r.x30' ∧ t.reg 31#5 = r.x31' ∧
      (r.offset ≠ 0 → readBytes t.mem 0x05000000 r.offset 0x10000 4 = r.word') ∧ t.psw = r.psw' ∧ t.pc = r.pc' ∧
      t.cycles = r.cycles)
  | _ => false

def all (rows : List Row) : Bool := rows.all Row.holds

/-- The step is fatal with this fault. -/
def isFault (s : State) (f : Fault) : Bool :=
  match step s with
  | .fault g => decide (g = f)
  | _ => false

/-- The step refuses so. -/
def isRefused (s : State) (f : Refusal) : Bool :=
  match step s with
  | .refused g => decide (g = f)
  | _ => false

/-- The step makes a next state with this property. -/
def nextHas (s : State) (p : State → Bool) : Bool :=
  match step s with
  | .next t => p t
  | _ => false

theorem test_be : all [
    ⟨0x1#32, 0x0#32, 0x0#32, 0x0#32, 0x0, 0x0#32, 0x8410#16, 0x0#16,
      0x0#32, 0x0#32, 0x0#32, 0x0#32, 0x0#32, 0x1#32, 0x5000010#32, 3⟩,
    ⟨0x0#32, 0x0#32, 0x0#32, 0x0#32, 0x0, 0x0#32, 0x8408#16, 0x0#16,
      0x0#32, 0x0#32, 0x0#32, 0x0#32, 0x0#32, 0x0#32, 0x5000002#32, 1⟩] = true := by decide

theorem test_bne : all [
    ⟨0x1#32, 0x0#32, 0x0#32, 0x0#32, 0x0, 0x0#32, 0x9410#16, 0x0#16,
      0x0#32, 0x0#32, 0x0#32, 0x0#32, 0x0#32, 0x1#32, 0x5000002#32, 1⟩,
    ⟨0x0#32, 0x0#32, 0x0#32, 0x0#32, 0x0, 0x0#32, 0x9408#16, 0x0#16,
      0x0#32, 0x0#32, 0x0#32, 0x0#32, 0x0#32, 0x0#32, 0x5000008#32, 3⟩] = true := by decide

theorem test_br : all [
    ⟨0x0#32, 0x0#32, 0x0#32, 0x0#32, 0x0, 0x0#32, 0x8BFE#16, 0x0#16,
      0x0#32, 0x0#32, 0x0#32, 0x0#32, 0x0#32, 0x0#32, 0x4FFFFFE#32, 3⟩,
    ⟨0x0#32, 0x0#32, 0x0#32, 0x0#32, 0x0, 0x0#32, 0x8B00#16, 0x0#16,
      0x0#32, 0x0#32, 0x0#32, 0x0#32, 0x0#32, 0x0#32, 0x4FFFF00#32, 3⟩,
    ⟨0x0#32, 0x0#32, 0x0#32, 0x0#32, 0x0, 0x0#32, 0x8AFE#16, 0x0#16,
      0x0#32, 0x0#32, 0x0#32, 0x0#32, 0x0#32, 0x0#32, 0x50000FE#32, 3⟩,
    ⟨0x0#32, 0x0#32, 0x0#32, 0x0#32, 0x0, 0x0#32, 0x8AFF#16, 0x0#16,
      0x0#32, 0x0#32, 0x0#32, 0x0#32, 0x0#32, 0x0#32, 0x50000FE#32, 3⟩] = true := by decide

theorem test_nop : all [
    ⟨0xF#32, 0x0#32, 0x0#32, 0x0#32, 0x0, 0x0#32, 0x9A00#16, 0x0#16,
      0x0#32, 0x0#32, 0x0#32, 0x0#32, 0x0#32, 0xF#32, 0x5000002#32, 1⟩,
    ⟨0xF#32, 0x0#32, 0x0#32, 0x0#32, 0x0, 0x0#32, 0x9BFF#16, 0x0#16,
      0x0#32, 0x0#32, 0x0#32, 0x0#32, 0x0#32, 0xF#32, 0x5000002#32, 1⟩] = true := by decide

theorem test_blt : all [
    ⟨0x2#32, 0x0#32, 0x0#32, 0x0#32, 0x0, 0x0#32, 0x8C08#16, 0x0#16,
      0x0#32, 0x0#32, 0x0#32, 0x0#32, 0x0#32, 0x2#32, 0x5000008#32, 3⟩,
    ⟨0x6#32, 0x0#32, 0x0#32, 0x0#32, 0x0, 0x0#32, 0x8C08#16, 0x0#16,
      0x0#32, 0x0#32, 0x0#32, 0x0#32, 0x0#32, 0x6#32, 0x5000002#32, 1⟩] = true := by decide

theorem test_bge : all [
    ⟨0x6#32, 0x0#32, 0x0#32, 0x0#32, 0x0, 0x0#32, 0x9C08#16, 0x0#16,
      0x0#32, 0x0#32, 0x0#32, 0x0#32, 0x0#32, 0x6#32, 0x5000008#32, 3⟩,
    ⟨0x2#32, 0x0#32, 0x0#32, 0x0#32, 0x0, 0x0#32, 0x9C08#16, 0x0#16,
      0x0#32, 0x0#32, 0x0#32, 0x0#32, 0x0#32, 0x2#32, 0x5000002#32, 1⟩] = true := by decide

theorem test_bh : all [
    ⟨0x0#32, 0x0#32, 0x0#32, 0x0#32, 0x0, 0x0#32, 0x9608#16, 0x0#16,
      0x0#32, 0x0#32, 0x0#32, 0x0#32, 0x0#32, 0x0#32, 0x5000008#32, 3⟩,
    ⟨0x1#32, 0x0#32, 0x0#32, 0x0#32, 0x0, 0x0#32, 0x9608#16, 0x0#16,
      0x0#32, 0x0#32, 0x0#32, 0x0#32, 0x0#32, 0x1#32, 0x5000002#32, 1⟩] = true := by decide

theorem test_bnh : all [
    ⟨0x8#32, 0x0#32, 0x0#32, 0x0#32, 0x0, 0x0#32, 0x8608#16, 0x0#16,
      0x0#32, 0x0#32, 0x0#32, 0x0#32, 0x0#32, 0x8#32, 0x5000008#32, 3⟩,
    ⟨0x0#32, 0x0#32, 0x0#32, 0x0#32, 0x0, 0x0#32, 0x8608#16, 0x0#16,
      0x0#32, 0x0#32, 0x0#32, 0x0#32, 0x0#32, 0x0#32, 0x5000002#32, 1⟩] = true := by decide

theorem test_bgt : all [
    ⟨0x1#32, 0x0#32, 0x0#32, 0x0#32, 0x0, 0x0#32, 0x9E08#16, 0x0#16,
      0x0#32, 0x0#32, 0x0#32, 0x0#32, 0x0#32, 0x1#32, 0x5000002#32, 1⟩,
    ⟨0x0#32, 0x0#32, 0x0#32, 0x0#32, 0x0, 0x0#32, 0x9E08#16, 0x0#16,
      0x0#32, 0x0#32, 0x0#32, 0x0#32, 0x0#32, 0x0#32, 0x5000008#32, 3⟩] = true := by decide

theorem test_ble : all [
    ⟨0x1#32, 0x0#32, 0x0#32, 0x0#32, 0x0, 0x0#32, 0x8E08#16, 0x0#16,
      0x0#32, 0x0#32, 0x0#32, 0x0#32, 0x0#32, 0x1#32, 0x5000008#32, 3⟩,
    ⟨0x0#32, 0x0#32, 0x0#32, 0x0#32, 0x0, 0x0#32, 0x8E08#16, 0x0#16,
      0x0#32, 0x0#32, 0x0#32, 0x0#32, 0x0#32, 0x0#32, 0x5000002#32, 1⟩] = true := by decide

theorem test_mov : all [
    ⟨0xF#32, 0x12345678#32, 0x0#32, 0x0#32, 0x0, 0x0#32, 0x41#16, 0x0#16,
      0x12345678#32, 0x12345678#32, 0x0#32, 0x0#32, 0x0#32, 0xF#32, 0x5000002#32, 1⟩,
    ⟨0x0#32, 0x12345678#32, 0x0#32, 0x0#32, 0x0, 0x0#32, 0x1#16, 0x0#16,
      0x12345678#32, 0x0#32, 0x0#32, 0x0#32, 0x0#32, 0x0#32, 0x5000002#32, 1⟩] = true := by decide

theorem test_movImm : all [
    ⟨0x0#32, 0x0#32, 0x0#32, 0x0#32, 0x0, 0x0#32, 0x405F#16, 0x0#16,
      0x0#32, 0xFFFFFFFF#32, 0x0#32, 0x0#32, 0x0#32, 0x0#32, 0x5000002#32, 1⟩,
    ⟨0x0#32, 0x0#32, 0x0#32, 0x0#32, 0x0, 0x0#32, 0x404F#16, 0x0#16,
      0x0#32, 0xF#32, 0x0#32, 0x0#32, 0x0#32, 0x0#32, 0x5000002#32, 1⟩] = true := by decide

theorem test_add : all [
    ⟨0x0#32, 0x1#32, 0x7FFFFFFF#32, 0x0#32, 0x0, 0x0#32, 0x441#16, 0x0#16,
      0x1#32, 0x80000000#32, 0x0#32, 0x0#32, 0x0#32, 0x6#32, 0x5000002#32, 1⟩,
    ⟨0x0#32, 0x1#32, 0xFFFFFFFF#32, 0x0#32, 0x0, 0x0#32, 0x441#16, 0x0#16,
      0x1#32, 0x0#32, 0x0#32, 0x0#32, 0x0#32, 0x9#32, 0x5000002#32, 1⟩,
    ⟨0x0#32, 0x80000000#32, 0x80000000#32, 0x0#32, 0x0, 0x0#32, 0x441#16, 0x0#16,
      0x80000000#32, 0x0#32, 0x0#32, 0x0#32, 0x0#32, 0xD#32, 0x5000002#32, 1⟩,
    ⟨0x0#32, 0x0#32, 0x40000000#32, 0x0#32, 0x0, 0x0#32, 0x442#16, 0x0#16,
      0x0#32, 0x80000000#32, 0x0#32, 0x0#32, 0x0#32, 0x6#32, 0x5000002#32, 1⟩] = true := by decide

theorem test_addImm : all [
    ⟨0x0#32, 0x0#32, 0x10#32, 0x0#32, 0x0, 0x0#32, 0x4450#16, 0x0#16,
      0x0#32, 0x0#32, 0x0#32, 0x0#32, 0x0#32, 0x9#32, 0x5000002#32, 1⟩,
    ⟨0x0#32, 0x0#32, 0x7FFFFFFF#32, 0x0#32, 0x0, 0x0#32, 0x4441#16, 0x0#16,
      0x0#32, 0x80000000#32, 0x0#32, 0x0#32, 0x0#32, 0x6#32, 0x5000002#32, 1⟩,
    ⟨0x0#32, 0x0#32, 0x0#32, 0x0#32, 0x0, 0x0#32, 0x445F#16, 0x0#16,
      0x0#32, 0xFFFFFFFF#32, 0x0#32, 0x0#32, 0x0#32, 0x2#32, 0x5000002#32, 1⟩] = true := by decide

theorem test_sub : all [
    ⟨0x0#32, 0x1#32, 0x0#32, 0x0#32, 0x0, 0x0#32, 0x841#16, 0x0#16,
      0x1#32, 0xFFFFFFFF#32, 0x0#32, 0x0#32, 0x0#32, 0xA#32, 0x5000002#32, 1⟩,
    ⟨0x0#32, 0x1#32, 0x80000000#32, 0x0#32, 0x0, 0x0#32, 0x841#16, 0x0#16,
      0x1#32, 0x7FFFFFFF#32, 0x0#32, 0x0#32, 0x0#32, 0x4#32, 0x5000002#32, 1⟩,
    ⟨0x0#32, 0xFFFFFFFF#32, 0x7FFFFFFF#32, 0x0#32, 0x0, 0x0#32, 0x841#16, 0x0#16,
      0xFFFFFFFF#32, 0x80000000#32, 0x0#32, 0x0#32, 0x0#32, 0xE#32, 0x5000002#32, 1⟩,
    ⟨0xF#32, 0x0#32, 0xCAFEBABE#32, 0x0#32, 0x0, 0x0#32, 0x842#16, 0x0#16,
      0x0#32, 0x0#32, 0x0#32, 0x0#32, 0x0#32, 0x1#32, 0x5000002#32, 1⟩] = true := by decide

theorem test_cmp : all [
    ⟨0x0#32, 0x5#32, 0x3#32, 0x0#32, 0x0, 0x0#32, 0xC41#16, 0x0#16,
      0x5#32, 0x3#32, 0x0#32, 0x0#32, 0x0#32, 0xA#32, 0x5000002#32, 1⟩,
    ⟨0x0#32, 0x3#32, 0x5#32, 0x0#32, 0x0, 0x0#32, 0xC41#16, 0x0#16,
      0x3#32, 0x5#32, 0x0#32, 0x0#32, 0x0#32, 0x0#32, 0x5000002#32, 1⟩,
    ⟨0x0#32, 0x80000000#32, 0x7FFFFFFF#32, 0x0#32, 0x0, 0x0#32, 0xC41#16, 0x0#16,
      0x80000000#32, 0x7FFFFFFF#32, 0x0#32, 0x0#32, 0x0#32, 0xE#32, 0x5000002#32, 1⟩] = true := by decide

theorem test_cmpImm : all [
    ⟨0x0#32, 0x0#32, 0x0#32, 0x0#32, 0x0, 0x0#32, 0x4C40#16, 0x0#16,
      0x0#32, 0x0#32, 0x0#32, 0x0#32, 0x0#32, 0x1#32, 0x5000002#32, 1⟩,
    ⟨0x0#32, 0x0#32, 0x0#32, 0x0#32, 0x0, 0x0#32, 0x4C5F#16, 0x0#16,
      0x0#32, 0x0#32, 0x0#32, 0x0#32, 0x0#32, 0x8#32, 0x5000002#32, 1⟩] = true := by decide

theorem test_or : all [
    ⟨0xC#32, 0xF0F0F0F0#32, 0xF0F0F0F#32, 0x0#32, 0x0, 0x0#32, 0x3041#16, 0x0#16,
      0xF0F0F0F0#32, 0xFFFFFFFF#32, 0x0#32, 0x0#32, 0x0#32, 0xA#32, 0x5000002#32, 1⟩] = true := by decide

theorem test_and : all [
    ⟨0xC#32, 0xF0F0F0F0#32, 0xF0F0F0F#32, 0x0#32, 0x0, 0x0#32, 0x3441#16, 0x0#16,
      0xF0F0F0F0#32, 0x0#32, 0x0#32, 0x0#32, 0x0#32, 0x9#32, 0x5000002#32, 1⟩] = true := by decide

theorem test_xor : all [
    ⟨0x4#32, 0xFFFFFFFF#32, 0xFFFF#32, 0x0#32, 0x0, 0x0#32, 0x3841#16, 0x0#16,
      0xFFFFFFFF#32, 0xFFFF0000#32, 0x0#32, 0x0#32, 0x0#32, 0x2#32, 0x5000002#32, 1⟩] = true := by decide

theorem test_not : all [
    ⟨0x8#32, 0xFFFFFFFF#32, 0x55#32, 0x0#32, 0x0, 0x0#32, 0x3C41#16, 0x0#16,
      0xFFFFFFFF#32, 0x0#32, 0x0#32, 0x0#32, 0x0#32, 0x9#32, 0x5000002#32, 1⟩,
    ⟨0x0#32, 0x0#32, 0x0#32, 0x0#32, 0x0, 0x0#32, 0x3C40#16, 0x0#16,
      0x0#32, 0xFFFFFFFF#32, 0x0#32, 0x0#32, 0x0#32, 0x2#32, 0x5000002#32, 1⟩] = true := by decide

theorem test_setf : all [
    ⟨0x1#32, 0x0#32, 0xFFFFFFFF#32, 0x0#32, 0x0, 0x0#32, 0x4842#16, 0x0#16,
      0x0#32, 0x1#32, 0x0#32, 0x0#32, 0x0#32, 0x1#32, 0x5000002#32, 1⟩,
    ⟨0x0#32, 0x0#32, 0xFFFFFFFF#32, 0x0#32, 0x0, 0x0#32, 0x4842#16, 0x0#16,
      0x0#32, 0x0#32, 0x0#32, 0x0#32, 0x0#32, 0x0#32, 0x5000002#32, 1⟩,
    ⟨0x1#32, 0x0#32, 0xFFFFFFFF#32, 0x0#32, 0x0, 0x0#32, 0x4852#16, 0x0#16,
      0x0#32, 0x1#32, 0x0#32, 0x0#32, 0x0#32, 0x1#32, 0x5000002#32, 1⟩,
    ⟨0x2#32, 0x0#32, 0x0#32, 0x0#32, 0x0, 0x0#32, 0x4846#16, 0x0#16,
      0x0#32, 0x1#32, 0x0#32, 0x0#32, 0x0#32, 0x2#32, 0x5000002#32, 1⟩,
    ⟨0xF#32, 0x0#32, 0x7#32, 0x0#32, 0x0, 0x0#32, 0x484D#16, 0x0#16,
      0x0#32, 0x0#32, 0x0#32, 0x0#32, 0x0#32, 0xF#32, 0x5000002#32, 1⟩] = true := by decide

theorem test_shl : all [
    ⟨0x0#32, 0x1#32, 0x80000001#32, 0x0#32, 0x0, 0x0#32, 0x1041#16, 0x0#16,
      0x1#32, 0x2#32, 0x0#32, 0x0#32, 0x0#32, 0x8#32, 0x5000002#32, 1⟩,
    ⟨0xC#32, 0x20#32, 0x80000001#32, 0x0#32, 0x0, 0x0#32, 0x1041#16, 0x0#16,
      0x20#32, 0x80000001#32, 0x0#32, 0x0#32, 0x0#32, 0xA#32, 0x5000002#32, 1⟩,
    ⟨0x0#32, 0xFFFFFFFF#32, 0x3#32, 0x0#32, 0x0, 0x0#32, 0x1041#16, 0x0#16,
      0xFFFFFFFF#32, 0x80000000#32, 0x0#32, 0x0#32, 0x0#32, 0xA#32, 0x5000002#32, 1⟩] = true := by decide

theorem test_shlImm : all [
    ⟨0x0#32, 0x0#32, 0x12345678#32, 0x0#32, 0x0, 0x0#32, 0x5044#16, 0x0#16,
      0x0#32, 0x23456780#32, 0x0#32, 0x0#32, 0x0#32, 0x8#32, 0x5000002#32, 1⟩,
    ⟨0x0#32, 0x0#32, 0x3#32, 0x0#32, 0x0, 0x0#32, 0x505F#16, 0x0#16,
      0x0#32, 0x80000000#32, 0x0#32, 0x0#32, 0x0#32, 0xA#32, 0x5000002#32, 1⟩,
    ⟨0xC#32, 0x0#32, 0x0#32, 0x0#32, 0x0, 0x0#32, 0x5040#16, 0x0#16,
      0x0#32, 0x0#32, 0x0#32, 0x0#32, 0x0#32, 0x9#32, 0x5000002#32, 1⟩] = true := by decide

theorem test_shr : all [
    ⟨0x0#32, 0x4#32, 0x80000008#32, 0x0#32, 0x0, 0x0#32, 0x1441#16, 0x0#16,
      0x4#32, 0x8000000#32, 0x0#32, 0x0#32, 0x0#32, 0x8#32, 0x5000002#32, 1⟩] = true := by decide

theorem test_shrImm : all [
    ⟨0x0#32, 0x0#32, 0x1#32, 0x0#32, 0x0, 0x0#32, 0x5441#16, 0x0#16,
      0x0#32, 0x0#32, 0x0#32, 0x0#32, 0x0#32, 0x9#32, 0x5000002#32, 1⟩,
    ⟨0x8#32, 0x0#32, 0x80000000#32, 0x0#32, 0x0, 0x0#32, 0x545F#16, 0x0#16,
      0x0#32, 0x1#32, 0x0#32, 0x0#32, 0x0#32, 0x0#32, 0x5000002#32, 1⟩,
    ⟨0x4#32, 0x0#32, 0x80000000#32, 0x0#32, 0x0, 0x0#32, 0x5440#16, 0x0#16,
      0x0#32, 0x80000000#32, 0x0#32, 0x0#32, 0x0#32, 0x2#32, 0x5000002#32, 1⟩] = true := by decide

theorem test_sar : all [
    ⟨0x0#32, 0x4#32, 0x80000008#32, 0x0#32, 0x0, 0x0#32, 0x1C41#16, 0x0#16,
      0x4#32, 0xF8000000#32, 0x0#32, 0x0#32, 0x0#32, 0xA#32, 0x5000002#32, 1⟩] = true := by decide

theorem test_sarImm : all [
    ⟨0x0#32, 0x0#32, 0x80000000#32, 0x0#32, 0x0, 0x0#32, 0x5C5F#16, 0x0#16,
      0x0#32, 0xFFFFFFFF#32, 0x0#32, 0x0#32, 0x0#32, 0x2#32, 0x5000002#32, 1⟩,
    ⟨0x0#32, 0x0#32, 0x7FFFFFFF#32, 0x0#32, 0x0, 0x0#32, 0x5C5F#16, 0x0#16,
      0x0#32, 0x0#32, 0x0#32, 0x0#32, 0x0#32, 0x9#32, 0x5000002#32, 1⟩,
    ⟨0x0#32, 0x0#32, 0xFFFFFFFF#32, 0x0#32, 0x0, 0x0#32, 0x5C41#16, 0x0#16,
      0x0#32, 0xFFFFFFFF#32, 0x0#32, 0x0#32, 0x0#32, 0xA#32, 0x5000002#32, 1⟩,
    ⟨0x0#32, 0x0#32, 0x80008000#32, 0x0#32, 0x0, 0x0#32, 0x5C50#16, 0x0#16,
      0x0#32, 0xFFFF8000#32, 0x0#32, 0x0#32, 0x0#32, 0xA#32, 0x5000002#32, 1⟩] = true := by decide

theorem test_mul : all [
    ⟨0x8#32, 0x3#32, 0x5#32, 0x55#32, 0x0, 0x0#32, 0x2041#16, 0x0#16,
      0x3#32, 0xF#32, 0x0#32, 0x0#32, 0x0#32, 0x8#32, 0x5000002#32, 13⟩,
    ⟨0x0#32, 0xFFFFFFFF#32, 0x5#32, 0x0#32, 0x0, 0x0#32, 0x2041#16, 0x0#16,
      0xFFFFFFFF#32, 0xFFFFFFFB#32, 0xFFFFFFFF#32, 0x0#32, 0x0#32, 0x2#32, 0x5000002#32, 13⟩,
    ⟨0x0#32, 0x10000#32, 0x10000#32, 0x0#32, 0x0, 0x0#32, 0x2041#16, 0x0#16,
      0x10000#32, 0x0#32, 0x1#32, 0x0#32, 0x0#32, 0x5#32, 0x5000002#32, 13⟩,
    ⟨0x0#32, 0x80000000#32, 0xFFFFFFFF#32, 0x0#32, 0x0, 0x0#32, 0x2041#16, 0x0#16,
      0x80000000#32, 0x80000000#32, 0x0#32, 0x0#32, 0x0#32, 0x6#32, 0x5000002#32, 13⟩,
    ⟨0x0#32, 0x10000#32, 0x0#32, 0x10001#32, 0x0, 0x0#32, 0x23C1#16, 0x0#16,
      0x10000#32, 0x0#32, 0x10000#32, 0x0#32, 0x0#32, 0x4#32, 0x5000002#32, 13⟩] = true := by decide

theorem test_mulu : all [
    ⟨0x0#32, 0xFFFFFFFF#32, 0xFFFFFFFF#32, 0x0#32, 0x0, 0x0#32, 0x2841#16, 0x0#16,
      0xFFFFFFFF#32, 0x1#32, 0xFFFFFFFE#32, 0x0#32, 0x0#32, 0x4#32, 0x5000002#32, 13⟩,
    ⟨0x0#32, 0xFFFF#32, 0x10001#32, 0x7#32, 0x0, 0x0#32, 0x2841#16, 0x0#16,
      0xFFFF#32, 0xFFFFFFFF#32, 0x0#32, 0x0#32, 0x0#32, 0x2#32, 0x5000002#32, 13⟩,
    ⟨0xE#32, 0x0#32, 0x10001#32, 0x7#32, 0x0, 0x0#32, 0x2841#16, 0x0#16,
      0x0#32, 0x0#32, 0x0#32, 0x0#32, 0x0#32, 0x9#32, 0x5000002#32, 13⟩] = true := by decide

theorem test_div : all [
    ⟨0x0#32, 0x3#32, 0xFFFFFFF9#32, 0x0#32, 0x0, 0x0#32, 0x2441#16, 0x0#16,
      0x3#32, 0xFFFFFFFE#32, 0xFFFFFFFF#32, 0x0#32, 0x0#32, 0x2#32, 0x5000002#32, 38⟩,
    ⟨0x0#32, 0xFFFFFFFD#32, 0x7#32, 0x0#32, 0x0, 0x0#32, 0x2441#16, 0x0#16,
      0xFFFFFFFD#32, 0xFFFFFFFE#32, 0x1#32, 0x0#32, 0x0#32, 0x2#32, 0x5000002#32, 38⟩,
    ⟨0x0#32, 0xFFFFFFFF#32, 0x80000000#32, 0x5#32, 0x0, 0x0#32, 0x2441#16, 0x0#16,
      0xFFFFFFFF#32, 0x80000000#32, 0x0#32, 0x0#32, 0x0#32, 0x6#32, 0x5000002#32, 38⟩,
    ⟨0x0#32, 0x3#32, 0x0#32, 0x7#32, 0x0, 0x0#32, 0x27C1#16, 0x0#16,
      0x3#32, 0x0#32, 0x2#32, 0x0#32, 0x0#32, 0x0#32, 0x5000002#32, 38⟩] = true := by decide

theorem test_divu : all [
    ⟨0x0#32, 0x3#32, 0xFFFFFFF9#32, 0x0#32, 0x0, 0x0#32, 0x2C41#16, 0x0#16,
      0x3#32, 0x55555553#32, 0x0#32, 0x0#32, 0x0#32, 0x0#32, 0x5000002#32, 36⟩,
    ⟨0x4#32, 0xFFFFFFFF#32, 0x80000000#32, 0x0#32, 0x0, 0x0#32, 0x2C41#16, 0x0#16,
      0xFFFFFFFF#32, 0x0#32, 0x80000000#32, 0x0#32, 0x0#32, 0x1#32, 0x5000002#32, 36⟩] = true := by decide

theorem test_jmp : all [
    ⟨0xF#32, 0x7000101#32, 0x0#32, 0x0#32, 0x0, 0x0#32, 0x1801#16, 0x0#16,
      0x7000101#32, 0x0#32, 0x0#32, 0x0#32, 0x0#32, 0xF#32, 0x7000100#32, 3⟩,
    ⟨0x0#32, 0x5000040#32, 0x0#32, 0x0#32, 0x0, 0x0#32, 0x1BE1#16, 0x0#16,
      0x5000040#32, 0x0#32, 0x0#32, 0x0#32, 0x0#32, 0x0#32, 0x5000040#32, 3⟩,
    ⟨0x0#32, 0x0#32, 0x0#32, 0x0#32, 0x0, 0x0#32, 0x1800#16, 0x0#16,
      0x0#32, 0x0#32, 0x0#32, 0x0#32, 0x0#32, 0x0#32, 0x0#32, 3⟩] = true := by decide

theorem test_jr : all [
    ⟨0x0#32, 0x0#32, 0x0#32, 0x0#32, 0x0, 0x0#32, 0xA800#16, 0x100#16,
      0x0#32, 0x0#32, 0x0#32, 0x0#32, 0x0#32, 0x0#32, 0x5000100#32, 3⟩,
    ⟨0x0#32, 0x0#32, 0x0#32, 0x0#32, 0x0, 0x0#32, 0xA9FF#16, 0xFFFE#16,
      0x0#32, 0x0#32, 0x0#32, 0x0#32, 0x0#32, 0x0#32, 0x6FFFFFE#32, 3⟩,
    ⟨0x0#32, 0x0#32, 0x0#32, 0x0#32, 0x0, 0x0#32, 0xAA00#16, 0x0#16,
      0x0#32, 0x0#32, 0x0#32, 0x0#32, 0x0#32, 0x0#32, 0x3000000#32, 3⟩] = true := by decide

theorem test_jal : all [
    ⟨0x0#32, 0x0#32, 0x0#32, 0x0#32, 0x0, 0x0#32, 0xAC00#16, 0x1000#16,
      0x0#32, 0x0#32, 0x0#32, 0x5000004#32, 0x0#32, 0x0#32, 0x5001000#32, 3⟩,
    ⟨0x0#32, 0x0#32, 0x0#32, 0x0#32, 0x0, 0x0#32, 0xAC00#16, 0x0#16,
      0x0#32, 0x0#32, 0x0#32, 0x5000004#32, 0x0#32, 0x0#32, 0x5000000#32, 3⟩] = true := by decide

theorem test_movea : all [
    ⟨0xF#32, 0x10000#32, 0x0#32, 0x0#32, 0x0, 0x0#32, 0xA041#16, 0x8000#16,
      0x10000#32, 0x8000#32, 0x0#32, 0x0#32, 0x0#32, 0xF#32, 0x5000004#32, 1⟩,
    ⟨0x0#32, 0x0#32, 0x0#32, 0x0#32, 0x0, 0x0#32, 0xA040#16, 0xFFFF#16,
      0x0#32, 0xFFFFFFFF#32, 0x0#32, 0x0#32, 0x0#32, 0x0#32, 0x5000004#32, 1⟩] = true := by decide

theorem test_addi : all [
    ⟨0x0#32, 0x80000000#32, 0x0#32, 0x0#32, 0x0, 0x0#32, 0xA441#16, 0x8000#16,
      0x80000000#32, 0x7FFF8000#32, 0x0#32, 0x0#32, 0x0#32, 0xC#32, 0x5000004#32, 1⟩,
    ⟨0x0#32, 0x7FFFFFFF#32, 0x0#32, 0x0#32, 0x0, 0x0#32, 0xA441#16, 0x7FFF#16,
      0x7FFFFFFF#32, 0x80007FFE#32, 0x0#32, 0x0#32, 0x0#32, 0x6#32, 0x5000004#32, 1⟩,
    ⟨0x0#32, 0xFFFFFFFF#32, 0x0#32, 0x0#32, 0x0, 0x0#32, 0xA441#16, 0x1#16,
      0xFFFFFFFF#32, 0x0#32, 0x0#32, 0x0#32, 0x0#32, 0x9#32, 0x5000004#32, 1⟩] = true := by decide

theorem test_ori : all [
    ⟨0xC#32, 0x0#32, 0x0#32, 0x0#32, 0x0, 0x0#32, 0xB040#16, 0xFFFF#16,
      0x0#32, 0xFFFF#32, 0x0#32, 0x0#32, 0x0#32, 0x8#32, 0x5000004#32, 1⟩] = true := by decide

theorem test_andi : all [
    ⟨0x4#32, 0xFFFFFFFF#32, 0x0#32, 0x0#32, 0x0, 0x0#32, 0xB441#16, 0x8000#16,
      0xFFFFFFFF#32, 0x8000#32, 0x0#32, 0x0#32, 0x0#32, 0x0#32, 0x5000004#32, 1⟩,
    ⟨0x8#32, 0xFFFFFFFF#32, 0x5#32, 0x0#32, 0x0, 0x0#32, 0xB441#16, 0x0#16,
      0xFFFFFFFF#32, 0x0#32, 0x0#32, 0x0#32, 0x0#32, 0x9#32, 0x5000004#32, 1⟩] = true := by decide

theorem test_xori : all [
    ⟨0x0#32, 0x8000FFFF#32, 0x0#32, 0x0#32, 0x0, 0x0#32, 0xB841#16, 0xFFFF#16,
      0x8000FFFF#32, 0x80000000#32, 0x0#32, 0x0#32, 0x0#32, 0x2#32, 0x5000004#32, 1⟩] = true := by decide

theorem test_movhi : all [
    ⟨0xF#32, 0x80000001#32, 0x0#32, 0x0#32, 0x0, 0x0#32, 0xBC41#16, 0x8000#16,
      0x80000001#32, 0x1#32, 0x0#32, 0x0#32, 0x0#32, 0xF#32, 0x5000004#32, 1⟩,
    ⟨0x0#32, 0x0#32, 0x0#32, 0x0#32, 0x0, 0x0#32, 0xBC40#16, 0x500#16,
      0x0#32, 0x5000000#32, 0x0#32, 0x0#32, 0x0#32, 0x0#32, 0x5000004#32, 1⟩] = true := by decide

theorem test_ldB : all [
    ⟨0xF#32, 0x5000100#32, 0x0#32, 0x0#32, 0x100, 0x80FF7F01#32, 0xC041#16, 0x0#16,
      0x5000100#32, 0x1#32, 0x0#32, 0x0#32, 0x80FF7F01#32, 0xF#32, 0x5000004#32, 5⟩,
    ⟨0x0#32, 0x5000100#32, 0x0#32, 0x0#32, 0x100, 0x80FF7F01#32, 0xC041#16, 0x3#16,
      0x5000100#32, 0xFFFFFF80#32, 0x0#32, 0x0#32, 0x80FF7F01#32, 0x0#32, 0x5000004#32, 5⟩] = true := by decide

theorem test_inB : all [
    ⟨0x0#32, 0x5000100#32, 0x0#32, 0x0#32, 0x100, 0x80FF7F01#32, 0xE041#16, 0x3#16,
      0x5000100#32, 0x80#32, 0x0#32, 0x0#32, 0x80FF7F01#32, 0x0#32, 0x5000004#32, 5⟩] = true := by decide

theorem test_ldH : all [
    ⟨0x0#32, 0x5000100#32, 0x0#32, 0x0#32, 0x100, 0x80FF7F01#32, 0xC441#16, 0x2#16,
      0x5000100#32, 0xFFFF80FF#32, 0x0#32, 0x0#32, 0x80FF7F01#32, 0x0#32, 0x5000004#32, 5⟩,
    ⟨0x0#32, 0x5000100#32, 0x0#32, 0x0#32, 0x100, 0x80FF7F01#32, 0xC441#16, 0x1#16,
      0x5000100#32, 0xFFFFFF7F#32, 0x0#32, 0x0#32, 0x80FF7F01#32, 0x0#32, 0x5000004#32, 5⟩] = true := by decide

theorem test_inH : all [
    ⟨0x0#32, 0x5000100#32, 0x0#32, 0x0#32, 0x100, 0x80FF7F01#32, 0xE441#16, 0x2#16,
      0x5000100#32, 0x80FF#32, 0x0#32, 0x0#32, 0x80FF7F01#32, 0x0#32, 0x5000004#32, 5⟩] = true := by decide

theorem test_ldW : all [
    ⟨0x0#32, 0x5000100#32, 0x0#32, 0x0#32, 0x100, 0x80FF7F01#32, 0xCC41#16, 0x0#16,
      0x5000100#32, 0x80FF7F01#32, 0x0#32, 0x0#32, 0x80FF7F01#32, 0x0#32, 0x5000004#32, 5⟩,
    ⟨0x0#32, 0x5000100#32, 0x0#32, 0x0#32, 0x100, 0x80FF7F01#32, 0xCC01#16, 0x0#16,
      0x5000100#32, 0x0#32, 0x0#32, 0x0#32, 0x80FF7F01#32, 0x0#32, 0x5000004#32, 5⟩,
    ⟨0x0#32, 0x5000100#32, 0x0#32, 0x0#32, 0x100, 0x80FF7F01#32, 0xCC21#16, 0x0#16,
      0x80FF7F01#32, 0x0#32, 0x0#32, 0x0#32, 0x80FF7F01#32, 0x0#32, 0x5000004#32, 5⟩,
    ⟨0x0#32, 0xFD000000#32, 0x0#32, 0x0#32, 0x100, 0x80FF7F01#32, 0xCC41#16, 0x100#16,
      0xFD000000#32, 0x80FF7F01#32, 0x0#32, 0x0#32, 0x80FF7F01#32, 0x0#32, 0x5000004#32, 5⟩] = true := by decide

theorem test_inW : all [
    ⟨0x0#32, 0x5000104#32, 0x0#32, 0x0#32, 0x100, 0x80FF7F01#32, 0xEC41#16, 0xFFFC#16,
      0x5000104#32, 0x80FF7F01#32, 0x0#32, 0x0#32, 0x80FF7F01#32, 0x0#32, 0x5000004#32, 5⟩] = true := by decide

theorem test_stB : all [
    ⟨0xF#32, 0x5000200#32, 0x12345678#32, 0x0#32, 0x200, 0x0#32, 0xD041#16, 0x1#16,
      0x5000200#32, 0x12345678#32, 0x0#32, 0x0#32, 0x7800#32, 0xF#32, 0x5000004#32, 4⟩] = true := by decide

theorem test_stH : all [
    ⟨0x0#32, 0x5000200#32, 0x12345678#32, 0x0#32, 0x200, 0x0#32, 0xD441#16, 0x2#16,
      0x5000200#32, 0x12345678#32, 0x0#32, 0x0#32, 0x56780000#32, 0x0#32, 0x5000004#32, 4⟩] = true := by decide

theorem test_stW : all [
    ⟨0x0#32, 0x5000200#32, 0x12345678#32, 0x0#32, 0x200, 0x0#32, 0xDC41#16, 0x0#16,
      0x5000200#32, 0x12345678#32, 0x0#32, 0x0#32, 0x12345678#32, 0x0#32, 0x5000004#32, 4⟩,
    ⟨0x0#32, 0x5000200#32, 0x0#32, 0x0#32, 0x200, 0xFFFFFFFF#32, 0xDC01#16, 0x0#16,
      0x5000200#32, 0x0#32, 0x0#32, 0x0#32, 0x0#32, 0x0#32, 0x5000004#32, 4⟩] = true := by decide

theorem test_outB : all [
    ⟨0x0#32, 0x5000200#32, 0x12345678#32, 0x0#32, 0x200, 0x0#32, 0xF041#16, 0x0#16,
      0x5000200#32, 0x12345678#32, 0x0#32, 0x0#32, 0x78#32, 0x0#32, 0x5000004#32, 4⟩] = true := by decide

theorem test_outH : all [
    ⟨0x0#32, 0x5000200#32, 0x12345678#32, 0x0#32, 0x200, 0x0#32, 0xF441#16, 0x1#16,
      0x5000200#32, 0x12345678#32, 0x0#32, 0x0#32, 0x567800#32, 0x0#32, 0x5000004#32, 4⟩] = true := by decide

theorem test_outW : all [
    ⟨0x0#32, 0x5008200#32, 0x12345678#32, 0x0#32, 0x200, 0x0#32, 0xFC41#16, 0x8000#16,
      0x5008200#32, 0x12345678#32, 0x0#32, 0x0#32, 0x12345678#32, 0x0#32, 0x5000004#32, 4⟩] = true := by decide

theorem test_caxi : all [
    ⟨0x0#32, 0x5000000#32, 0x5#32, 0x9#32, 0x100, 0x5#32, 0xE841#16, 0x100#16,
      0x5000000#32, 0x5#32, 0x9#32, 0x0#32, 0x9#32, 0x1#32, 0x5000004#32, 22⟩,
    ⟨0x0#32, 0x5000000#32, 0x5#32, 0x9#32, 0x100, 0x7#32, 0xE841#16, 0x100#16,
      0x5000000#32, 0x7#32, 0x9#32, 0x0#32, 0x7#32, 0xA#32, 0x5000004#32, 22⟩,
    ⟨0x0#32, 0x5000100#32, 0x0#32, 0x80000000#32, 0x100, 0x80000000#32, 0xEBC1#16, 0x0#16,
      0x5000100#32, 0x0#32, 0x80000000#32, 0x0#32, 0x80000000#32, 0x1#32, 0x5000004#32, 22⟩] = true := by decide

theorem test_bv : all [
    ⟨0x4#32, 0x0#32, 0x0#32, 0x0#32, 0x0, 0x0#32, 0x8008#16, 0x0#16,
      0x0#32, 0x0#32, 0x0#32, 0x0#32, 0x0#32, 0x4#32, 0x5000008#32, 3⟩,
    ⟨0x8#32, 0x0#32, 0x0#32, 0x0#32, 0x0, 0x0#32, 0x8008#16, 0x0#16,
      0x0#32, 0x0#32, 0x0#32, 0x0#32, 0x0#32, 0x8#32, 0x5000002#32, 1⟩] = true := by decide

theorem test_bc : all [
    ⟨0x8#32, 0x0#32, 0x0#32, 0x0#32, 0x0, 0x0#32, 0x8208#16, 0x0#16,
      0x0#32, 0x0#32, 0x0#32, 0x0#32, 0x0#32, 0x8#32, 0x5000008#32, 3⟩,
    ⟨0x4#32, 0x0#32, 0x0#32, 0x0#32, 0x0, 0x0#32, 0x8208#16, 0x0#16,
      0x0#32, 0x0#32, 0x0#32, 0x0#32, 0x0#32, 0x4#32, 0x5000002#32, 1⟩] = true := by decide

theorem test_bn : all [
    ⟨0x2#32, 0x0#32, 0x0#32, 0x0#32, 0x0, 0x0#32, 0x8808#16, 0x0#16,
      0x0#32, 0x0#32, 0x0#32, 0x0#32, 0x0#32, 0x2#32, 0x5000008#32, 3⟩,
    ⟨0x1#32, 0x0#32, 0x0#32, 0x0#32, 0x0, 0x0#32, 0x8808#16, 0x0#16,
      0x0#32, 0x0#32, 0x0#32, 0x0#32, 0x0#32, 0x1#32, 0x5000002#32, 1⟩] = true := by decide

theorem test_bnv : all [
    ⟨0x8#32, 0x0#32, 0x0#32, 0x0#32, 0x0, 0x0#32, 0x9008#16, 0x0#16,
      0x0#32, 0x0#32, 0x0#32, 0x0#32, 0x0#32, 0x8#32, 0x5000008#32, 3⟩,
    ⟨0x4#32, 0x0#32, 0x0#32, 0x0#32, 0x0, 0x0#32, 0x9008#16, 0x0#16,
      0x0#32, 0x0#32, 0x0#32, 0x0#32, 0x0#32, 0x4#32, 0x5000002#32, 1⟩] = true := by decide

theorem test_bnc : all [
    ⟨0x4#32, 0x0#32, 0x0#32, 0x0#32, 0x0, 0x0#32, 0x9208#16, 0x0#16,
      0x0#32, 0x0#32, 0x0#32, 0x0#32, 0x0#32, 0x4#32, 0x5000008#32, 3⟩,
    ⟨0x8#32, 0x0#32, 0x0#32, 0x0#32, 0x0, 0x0#32, 0x9208#16, 0x0#16,
      0x0#32, 0x0#32, 0x0#32, 0x0#32, 0x0#32, 0x8#32, 0x5000002#32, 1⟩] = true := by decide

theorem test_bp : all [
    ⟨0x1#32, 0x0#32, 0x0#32, 0x0#32, 0x0, 0x0#32, 0x9808#16, 0x0#16,
      0x0#32, 0x0#32, 0x0#32, 0x0#32, 0x0#32, 0x1#32, 0x5000008#32, 3⟩,
    ⟨0x2#32, 0x0#32, 0x0#32, 0x0#32, 0x0, 0x0#32, 0x9808#16, 0x0#16,
      0x0#32, 0x0#32, 0x0#32, 0x0#32, 0x0#32, 0x2#32, 0x5000002#32, 1⟩] = true := by decide

/-! The fatal rows of sections 2.6 and 2.9. -/

theorem test_div_zero :
    isFault (placed (start 8#32 0#32 3#32 9#32) 0x2441#16 0#16) (.divideByZero 0x05000000#32 0x2441#16) = true := by decide

theorem test_divu_zero :
    isFault (placed (start 0#32 0#32 1#32 0#32) 0x2C40#16 0#16) (.divideByZero 0x05000000#32 0x2C40#16) = true := by decide

theorem test_ldB_permission :
    isFault (placed (start 0#32 0x01000000#32 0#32 0#32) 0xC041#16 0x0010#16)
      (.busError .permission 0x01000010#32 0x05000000#32 (some 0xC041#16)) = true := by decide

theorem test_ldW_fatal :
    isFault (placed (start 0#32 0x03000000#32 0#32 0#32) 0xCC41#16 0x0000#16)
      (.busError .unmapped 0x03000000#32 0x05000000#32 (some 0xCC41#16)) = true ∧
    isFault (placed (start 0#32 0x04000000#32 0#32 0#32) 0xCC41#16 0x0004#16)
      (.busError .unimplemented 0x04000004#32 0x05000000#32 (some 0xCC41#16)) = true ∧
    isFault (placed (start 0#32 0x06000000#32 0#32 0#32) 0xCC41#16 0xFFFE#16)
      (.busError .unimplemented 0x05FFFFFE#32 0x05000000#32 (some 0xCC41#16)) = true := by decide

theorem test_stW_fatal :
    isFault (placed (start 0#32 0x07000000#32 1#32 0#32) 0xDC41#16 0x0000#16)
      (.busError .permission 0x07000000#32 0x05000000#32 (some 0xDC41#16)) = true ∧
    isFault (placed (start 0#32 0#32 1#32 0#32) 0xDC40#16 0xFFF0#16)
      (.busError .permission 0xFFFFFFF0#32 0x05000000#32 (some 0xDC40#16)) = true := by decide

/-! Section 2.10. -/

theorem test_cli :
    nextHas (placed (start 0x0000100F#32 0#32 0#32 0#32) 0x5800#16 0#16)
      (fun t => decide (t.psw = 0x0000000F#32 ∧ t.pc = 0x05000002#32 ∧ t.cycles = 12)) = true ∧
    nextHas (placed (start 0x00001000#32 0#32 0#32 0#32) 0x5BFF#16 0#16) (fun t => decide (t.psw = 0#32)) = true := by
  decide

theorem test_sei :
    nextHas (placed (start 0x00000005#32 0#32 0#32 0#32) 0x7800#16 0#16) (fun t => decide (t.psw = 0x00001005#32)) = true ∧
    nextHas (placed (start 0x00001000#32 0#32 0#32 0#32) 0x7800#16 0#16)
      (fun t => decide (t.psw = 0x00001000#32)) = true := by decide

theorem test_ldsr :
    nextHas (placed (start 0#32 0#32 0xFFFFFFFF#32 0#32) 0x7045#16 0#16) (fun t => decide (t.psw = 0x0003F3EF#32)) = true ∧
    nextHas (placed (start 0#32 0#32 0x12345679#32 0#32) 0x7040#16 0#16) (fun t => decide (t.eipc = 0x12345679#32)) = true ∧
    nextHas (placed (start 0#32 0#32 0x12345679#32 0#32) 0x7044#16 0#16) (fun t => decide (t.ecr = 0x0000FFF0#32)) = true ∧
    nextHas (placed (start 0#32 0#32 0xFFFFFFFF#32 0#32) 0x7058#16 0#16) (fun t => decide (t.chcw = 2#32)) = true ∧
    nextHas (placed (start 0#32 0#32 0xFFFFFFFF#32 0#32) 0x7059#16 0#16)
      (fun t => decide (t.adtre = 0xFFFFFFFF#32)) = true := by decide

theorem test_ldsr_fatal :
    isFault (placed (start 0#32 0#32 1#32 0#32) 0x7048#16 0#16) (.sysRegIndex 8#5 0x05000000#32 0x7048#16) = true := by decide

theorem test_stsr :
    nextHas (placed (start 0xF#32 0#32 0#32 0#32) 0x7446#16 0#16)
      (fun t => decide (t.reg 2#5 = 0x00005346#32 ∧ t.psw = 0xF#32)) = true ∧
    nextHas (placed (start 0#32 0#32 0#32 0#32) 0x7447#16 0#16) (fun t => decide (t.reg 2#5 = 0x000000E0#32)) = true ∧
    nextHas (placed (start 0x0002100A#32 0#32 0#32 0#32) 0x7445#16 0#16)
      (fun t => decide (t.reg 2#5 = 0x0002100A#32)) = true ∧
    nextHas (placed (start 0#32 0#32 0#32 0#32) 0x7444#16 0#16) (fun t => decide (t.reg 2#5 = 0x0000FFF0#32)) = true := by
  decide

theorem test_stsr_fatal :
    isFault (placed (start 0#32 0#32 1#32 0#32) 0x745F#16 0#16) (.sysRegIndex 31#5 0x05000000#32 0x745F#16) = true := by
  decide

/-- The saved pairs of the RETI rows. -/
def saved (psw eipc eipsw fepc fepsw : Word) : State :=
  { start psw 0#32 0#32 0#32 with eipc := eipc, eipsw := eipsw, fepc := fepc, fepsw := fepsw }

theorem test_reti :
    nextHas (placed (saved 0x5000#32 0x05000123#32 0xFFFFFFFF#32 0x06000000#32 0#32) 0x6400#16 0#16)
      (fun t => decide (t.pc = 0x05000122#32 ∧ t.psw = 0x0003F3EF#32 ∧ t.cycles = 10)) = true ∧
    nextHas (placed (saved 0xD000#32 0x05000123#32 0#32 0x06000001#32 0x00004003#32) 0x6400#16 0#16)
      (fun t => decide (t.pc = 0x06000000#32 ∧ t.psw = 0x00004003#32)) = true ∧
    nextHas (placed (saved 0#32 0x05000200#32 1#32 0x06000001#32 0x00004003#32) 0x6400#16 0#16)
      (fun t => decide (t.pc = 0x05000200#32 ∧ t.psw = 1#32)) = true := by decide

/-- TRAP 18 with the ignored bits set, and its entry on the tick after. -/
theorem test_trap :
    nextHas (placed (start 0#32 0#32 0#32 0#32) 0x63F2#16 0#16)
      (fun t => decide (t.pc = 0x05000002#32 ∧ t.pending = [.trap 18#5] ∧ t.cycles = 15) &&
        nextHas t (fun u => decide (u.fepc = 0x05000002#32 ∧ u.fepsw = 0#32 ∧ u.ecr = 0xFFB2FFF0#32 ∧
          u.psw = 0x00009000#32 ∧ u.pc = 0xFFFFFFB0#32 ∧ u.pending = []))) = true := by decide

/-- HALT, and the entry of INT1 that ends it. -/
theorem test_halt :
    nextHas (placed (start 0#32 0#32 0#32 0#32) 0x6800#16 0#16)
      (fun t => decide (t.pc = 0x05000002#32 ∧ t.halted = true) && nextHas { t with offers := [[.int 1#4]] }
        (fun u => decide (u.eipc = 0x05000002#32 ∧ u.eipsw = 0#32 ∧ u.ecr = 0x0000FE10#32 ∧ u.psw = 0x00015000#32 ∧
          u.pc = 0xFFFFFE10#32 ∧ u.halted = false))) = true := by decide

/-! Section 2.11. -/

/-- Illegal patterns: one request, `pc` not advanced; and the entry on the tick after. -/
theorem test_illegal :
    [(0x6C00#16, 0#16), (0xC800#16, 0#16), (0xD800#16, 0#16), (0xF841#16, 0x0400#16), (0xF841#16, 0x3400#16),
      (0xF841#16, 0x3800#16), (0xF841#16, 0x4000#16), (0xF841#16, 0xFC00#16)].all (fun w =>
        nextHas (placed (start 0x00021001#32 0#32 0#32 0#32) w.1 w.2)
          (fun t => decide (t.pc = 0x05000000#32 ∧ t.pending = [.illegalOpcode] ∧ t.psw = 0x00021001#32))) = true := by
  decide

theorem test_illegal_entry :
    nextHas { start 0x00021001#32 0#32 0#32 0#32 with pending := [.illegalOpcode] }
      (fun u => decide (u.fepc = 0x05000000#32 ∧ u.fepsw = 0x00021001#32 ∧ u.ecr = 0xFF90FFF0#32 ∧
        u.psw = 0x00029001#32 ∧ u.pc = 0xFFFFFF90#32 ∧ u.pending = [])) = true := by decide

/-- `ADMIT_GK_INSTR` false: SETF, TRAP, HALT, ADDI, CAXI are illegal. -/
theorem test_unadmitted :
    [(0x4842#16, 0#16), (0x6005#16, 0#16), (0x6800#16, 0#16), (0xA441#16, 1#16), (0xE841#16, 0#16)].all (fun w =>
      nextHas (placed { start 0#32 0#32 0#32 0#32 with config := { defaultConfig with admitGkInstr := false } } w.1 w.2)
        (fun t => decide (t.pc = 0x05000000#32 ∧ t.pending = [.illegalOpcode]))) = true := by decide

theorem test_refusals :
    isRefused (placed (start 0#32 0#32 0#32 0#32) 0x7C0B#16 0#16) (.bitString 0x05000000#32 0x7C0B#16) = true ∧
      isRefused (placed (start 0#32 0#32 0#32 0#32) 0xF841#16 0x0000#16)
        (.formatVII "CMPF.S" 0x05000000#32 0xF841#16 0x0000#16) = true ∧
      isRefused (placed (start 0#32 0#32 0#32 0#32) 0xF841#16 0x33FF#16)
        (.formatVII "MPYHW" 0x05000000#32 0xF841#16 0x33FF#16) = true := by decide

/-- The start of the entries E1 to E10, with these lines offered. -/
def offered (psw : Word) (lines : List (List Line)) : State :=
  { placed { start psw 0#32 0#32 0#32 with eipc := 0#32, eipsw := 0#32, fepc := 0#32, fepsw := 0#32 } 0x9A00#16 0x9A00#16 with
    offers := lines }

theorem test_entry_E1 :
    nextHas (offered 0#32 [[.int 1#4, .int 3#4]]) (fun t => decide (t.eipc = 0x05000000#32 ∧ t.eipsw = 0#32 ∧
      t.ecr = 0x0000FE30#32 ∧ t.psw = 0x00035000#32 ∧ t.pc = 0xFFFFFE30#32 ∧ t.pending = [.int 1#4])) = true := by decide

theorem test_entry_E2 :
    nextHas (offered 0#32 [[.int 4#4, .nmi]]) (fun t => decide (t.fepc = 0x05000000#32 ∧ t.fepsw = 0#32 ∧
      t.ecr = 0xFFD0FFF0#32 ∧ t.psw = 0x00009000#32 ∧ t.pc = 0xFFFFFFD0#32 ∧ t.pending = [.int 4#4])) = true := by decide

theorem test_entry_E3 :
    nextHas (offered 0x00020000#32 [[.int 1#4], [.int 2#4]]) (fun t =>
      decide (t.pc = 0x05000002#32 ∧ t.pending = [.int 1#4]) && nextHas t (fun u => decide (u.eipc = 0x05000002#32 ∧
        u.eipsw = 0x00020000#32 ∧ u.ecr = 0x0000FE20#32 ∧ u.psw = 0x00025000#32 ∧ u.pc = 0xFFFFFE20#32 ∧
        u.pending = [.int 1#4]))) = true := by decide

theorem test_entry_E4_E8 :
    nextHas (offered 0x00001000#32 [[.int 3#4]]) (fun t => decide (t.pc = 0x05000002#32 ∧ t.pending = [.int 3#4])) = true ∧
      nextHas (offered 0x00030000#32 [[.int 2#4]])
        (fun t => decide (t.pc = 0x05000002#32 ∧ t.pending = [.int 2#4])) = true := by decide

theorem test_entry_E6_E7_E9 :
    nextHas (offered 0#32 [[.int 4#4]]) (fun t => decide (t.psw = 0x00005000#32 ∧ t.ecr = 0x0000FE40#32)) = true ∧
      nextHas (offered 0x00030000#32 [[.int 4#4]])
        (fun t => decide (t.eipsw = 0x00030000#32 ∧ t.psw = 0x00005000#32)) = true ∧
      nextHas (offered 0xF#32 [[.int 0#4]]) (fun t => decide (t.psw = 0x0000500F#32 ∧ t.pc = 0xFFFFFE00#32)) = true := by
  decide

theorem test_entry_E10 :
    nextHas (offered 0#32 [[.int 4#4, .reset]]) (fun t => decide (t.pc = 0xFFFFFFF0#32 ∧ t.psw = 0x00008000#32 ∧
      t.ecr = 0x0000FFF0#32 ∧ t.reg 1#5 = t.config.gprSentinel ∧ t.eipc = t.config.sysregSentinel ∧
      t.pending = [])) = true := by decide

/-- Section 2.9's resolution table, and the mirror after it. -/
theorem test_resolution :
    busTarget defaultConfig .read .byte 0x08000000#32 = .ok (.device .graphics 0) ∧
      busTarget defaultConfig .write .byte 0x01000400#32 = .ok (.device .sound 0x400) ∧
      busTarget defaultConfig .read .byte 0x02000020#32 = .ok (.device .hardwareControl 0x20) ∧
      busTarget defaultConfig .read .byte 0x03FFFFFF#32 = .error .unmapped ∧
      busTarget defaultConfig .write .byte 0x04000000#32 = .error .unimplemented ∧
      busTarget defaultConfig .read .byte 0x0D00FFFF#32 = .ok (.storage 0x05000000 0xFFFF 0x10000) ∧
      busTarget defaultConfig .read .byte 0xFFFFFFFF#32 = .ok (.storage 0x07000000 0xFFFFFF 0x01000000) ∧
      busTarget defaultConfig .read .half 0xFFFFFFFF#32 = .error .unimplemented ∧
      busTarget defaultConfig .write .byte 0xFFFFFFF0#32 = .error .permission := by decide

theorem test_mirror :
    readBytes (writeBytes [] 0x05000000 0x100 0x10000 0x11223344#32 4) 0x05000000 0x10100 0x10000 4 = 0x11223344#32 := by
  decide

/-- With nothing placed the first step from reset runs what the empty ROM decodes to, `MOV r0, r0` (log 19). -/
theorem test_reset_step :
    nextHas State.reset (fun t => decide (t.pc = 0xFFFFFFF2#32 ∧ t.psw = 0x00008000#32)) = true := by decide

/-! ### Witnesses: the hypotheses of the statements are met -/

/-- A state whose next instruction is a NOP, with nothing pending: a well-behaved starting point. -/
def plain : State := placed (start 0xF#32 5#32 7#32 9#32) 0x9A00#16 0#16

/-- The same where the instructions of `ADMIT_GK_INSTR` do not exist. -/
def unadmitted : State := { plain with config := { defaultConfig with admitGkInstr := false } }

/-- Working RAM is the only region, and `pc` is at its last half-word, which starts a 4-byte instruction. -/
def edge : State :=
  { start 0#32 0#32 0#32 0#32 with
    config := { defaultConfig with
      regions := [{ start := 0x05000000, size := 0x01000000, capability := .readWrite, kind := .storage 0x10000 }] }
    pc := 0x05FFFFFE#32
    mem := [(0x0500FFFF, 0xA0#8)] }

theorem witness_DecodeAfterEncode :
    (Instr.add 31#5 0#5).wellFormed = true ∧ (Instr.illegal3E0E 1#5 2#5 0x0E#6 0x3FF#10).wellFormed = true ∧
      (Instr.illegal3E0E 1#5 2#5 0x0F#6 0#10).wellFormed = true ∧
      (Instr.illegal3E10 1#5 2#5 0x10#6 0#10).wellFormed = true ∧
      (Instr.illegal3E10 1#5 2#5 0x1F#6 0#10).wellFormed = true ∧
      (Instr.illegal3E20 1#5 2#5 0x20#6 0#10).wellFormed = true ∧
      (Instr.illegal3E20 1#5 2#5 0x3F#6 0#10).wellFormed = true := by decide

/-- A step that reaches the fetch, with a 2-byte instruction there. -/
theorem witness_StepRunsDecodedInstruction : reachesFetch plain plain ∧ fetchedAt plain (.nop 0#9) :=
  ⟨by unfold reachesFetch; decide, 0x9A00#16, 0#16, ⟨0x05000000, 0, 0x10000, by decide, by decide⟩, fun h => absurd h (by decide), by decide⟩

/-- The same with a 4-byte instruction, and with a request pending that is not accepted. -/
theorem witness_StepRunsDecodedInstruction_four :
    reachesFetch { placed (start 0x1000#32 0#32 0#32 0#32) 0xA040#16 0x1234#16 with pending := [.int 3#4] }
        { placed (start 0x1000#32 0#32 0#32 0#32) 0xA040#16 0x1234#16 with pending := [.int 3#4] } ∧
      fetchedAt { placed (start 0x1000#32 0#32 0#32 0#32) 0xA040#16 0x1234#16 with pending := [.int 3#4] }
        (.movea 0x1234#16 0#5 2#5) :=
  ⟨by unfold reachesFetch; decide, 0xA040#16, 0x1234#16, ⟨0x05000000, 0, 0x10000, by decide, by decide⟩,
    fun _ => ⟨0x05000000, 2, 0x10000, by decide, by decide⟩, by decide⟩

theorem witness_StepRunsDecodedInstruction_idle :
    plain.fatal = none ∧ plain.halted = false ∧ plain.offers = [] ∧ plain.pending = [] := by decide

theorem witness_FetchErrorsAreFatal :
    reachesFetch { start 0#32 0#32 0#32 0#32 with pc := 0x03000000#32 } { start 0#32 0#32 0#32 0#32 with pc := 0x03000000#32 } ∧
      busTarget defaultConfig .read .half 0x03000000#32 = .error .unmapped := ⟨by unfold reachesFetch; decide, by decide⟩

theorem witness_FetchErrorsAreFatal_second :
    reachesFetch edge edge ∧ codeAt edge edge.pc 0xA000#16 ∧ fetchesSecond edge.config 0xA000#16 = true ∧
      busTarget edge.config .read .half (edge.pc + 2#32) = .error .unmapped :=
  ⟨by unfold reachesFetch; decide, ⟨0x05000000, 0xFFFFFE, 0x10000, by decide, by decide⟩, by decide, by decide⟩

theorem witness_UnadmittedInstructionIsIllegal : unadmitted.config.admitGkInstr = false := by decide

theorem witness_PendingIsASet : pendingWf [.nmi, .int 3#4, .int 1#4] ∧ IntType.int 3#4 ∈ [IntType.nmi, .int 3#4, .int 1#4] := by
  unfold pendingWf; decide

theorem witness_ChosenRequestHasLeastPriority :
    [IntType.int 3#4, .int 1#4] ≠ [] ∧ choose defaultConfig [.int 3#4, .int 1#4] = some (.int 3#4) := by decide

/-- Accepted: INT(3), nothing masked, under both retention parameters. -/
theorem witness_TickServicesOneRequest_accepted :
    plain.fatal = none ∧ choose plain.config (mergeOffered [.int 3#4] plain).pending = some (.int 3#4) ∧
      IntType.int 3#4 ≠ .reset ∧ levelFieldWf plain.config = true ∧ accepts plain.config plain.psw (descriptorOf plain.config (.int 3#4)) = true ∧
      plain.config.retention = .retain ∧
      accepts { plain.config with retention := .drop } plain.psw
        (descriptorOf { plain.config with retention := .drop } (.int 3#4)) = true := by decide

/-- Not accepted: the level 1 is below the mask level 2. -/
theorem witness_TickServicesOneRequest_refused :
    choose plain.config (mergeOffered [.int 1#4] { plain with psw := 0x00020000#32 }).pending = some (.int 1#4) ∧
      accepts plain.config 0x00020000#32 (descriptorOf plain.config (.int 1#4)) = false ∧
      accepts { plain.config with retention := .drop } 0x00020000#32
        (descriptorOf { plain.config with retention := .drop } (.int 1#4)) = false := by decide

theorem witness_EntrySavesAndVectors :
    levelFieldWf plain.config = true ∧ (defaultDescriptor (.int 15#4)).maskable = true ∧
      (defaultDescriptor (.int 15#4)).level = some 15 ∧ (defaultDescriptor .nmi).maskable = false ∧
      (defaultDescriptor .nmi).level = none ∧ ¬(plain.config.ilLsb ≤ 18 ∧ 18 < plain.config.ilLsb + plain.config.ilWidth) ∧
      ¬(plain.config.ilLsb ≤ 13 ∧ 13 < plain.config.ilLsb + plain.config.ilWidth) ∧
      (12 : Nat) ∈ [12, 14, 15] ∧ (18 : Nat) ∉ [12, 14, 15] ∧ (13 : Nat) ∉ [12, 14, 15] := by decide

theorem witness_ResetRequestPreempts :
    configWf plain.config = true ∧ plain.fatal = none ∧ Line.reset ∈ [Line.int 4#4, .reset] ∧
      IntType.reset ∈ { plain with pending := [.reset, .nmi] }.pending := by decide

theorem witness_EntryThenRetiRestores :
    levelFieldWf plain.config = true ∧ plain.pc.getLsbD 0 = false ∧ plain.psw &&& ~~~pswMask plain.config = 0#32 ∧
      (defaultDescriptor (.int 3#4)).maskable = true ∧ pswNP plain.psw = false ∧
      (defaultDescriptor .nmi).maskable = false := by decide

theorem witness_HaltedEngineIdles :
    { plain with halted := true }.halted = true ∧ { plain with halted := true }.fatal = none ∧
      { plain with halted := true }.pending = [] ∧ { plain with halted := true }.offers = [] := by decide

theorem witness_FatalLatchIsFinal :
    { plain with fatal := some (.divideByZero 0#32 0x2441#16) }.fatal = some (.divideByZero 0#32 0x2441#16) ∧
      step (placed (start 0#32 0#32 3#32 0#32) 0x2441#16 0#16) = .fault (.divideByZero 0x05000000#32 0x2441#16) :=
  ⟨rfl, rfl⟩

/-- The invariant holds in a state that is not the reset state, and a step is taken from it. -/
theorem witness_StepKeepsInvariant :
    State.Inv { plain with pending := [.trap 3#5, .int 1#4], halted := true } ∧
      ∃ t, step { plain with pending := [.trap 3#5, .int 1#4], halted := true } = .next t :=
  ⟨⟨by decide, by decide, by decide, by decide, by decide, by unfold pendingWf; decide, fun _ _ => rfl, fun _ => rfl,
    by decide⟩, _, rfl⟩

theorem witness_StepKeepsConfiguration : ∃ t, step plain = .next t := ⟨_, rfl⟩

/-- The first and the last address of the cartridge ROM. -/
theorem witness_ReadOnlyRegionNeverChanges :
    configWf plain.config = true ∧ (∃ g ∈ plain.config.regions, g.capability = .readOnly ∧ g.start = 0x07000000 ∧
      g.start ≤ maskAddress 0x07000000#32 ∧ maskAddress 0x07000000#32 < g.start + g.size ∧
      g.start ≤ maskAddress 0xFFFFFFFF#32 ∧ maskAddress 0xFFFFFFFF#32 < g.start + g.size) ∧ (∃ t, step plain = .next t) ∧
      busTarget plain.config .read .byte 0x03000000#32 = .error .unmapped ∧
      busTarget plain.config .write .byte 0x07000000#32 = .error .permission ∧
      step (placed (start 0#32 0x07000000#32 1#32 0#32) 0xDC41#16 0x0000#16) =
        .fault (.busError .permission 0x07000000#32 0x05000000#32 (some 0xDC41#16)) :=
  ⟨by decide, by decide, ⟨_, rfl⟩, by decide, by decide, rfl⟩

theorem witness_ControlBitsWrittenByFourOnly :
    (∃ t, exec (.add 1#5 2#5) plain = .next t) ∧ Instr.writesControlBits (.add 1#5 2#5) = false ∧
      (∃ t, exec (.ldsr 2#5 24#5) plain = .next t) ∧ Instr.writesControlBits (.ldsr 2#5 24#5) = false :=
  ⟨⟨_, rfl⟩, rfl, ⟨_, rfl⟩, rfl⟩

theorem witness_SystemRegistersWrittenByLdsrOnly :
    (∃ t, exec (.reti 0#10) plain = .next t) ∧ Instr.isLdsr (.reti 0#10) = false := ⟨⟨_, rfl⟩, rfl⟩

theorem witness_OnlyStoresChangeMemory :
    (∃ t, exec (.jal 4#26) plain = .next t) ∧ Instr.stores (.jal 4#26) = false := ⟨⟨_, rfl⟩, rfl⟩

theorem witness_SequentialAdvance :
    (∃ t, exec (.movhi 1#16 0#5 2#5) plain = .next t) ∧ Instr.transfersControl (.movhi 1#16 0#5 2#5) = false ∧
      plain.config.admitGkInstr = true := ⟨⟨_, rfl⟩, rfl, rfl⟩

theorem witness_RegisterZeroIsHardwired : (31#5 : Reg) ≠ 0#5 ∧ (0#5 : Reg) ≠ 31#5 := by decide

/-- Both values of the parameter that five statements ask for: AddWritesSumAndFlags, SetfWritesCondition, TrapAndHalt,
CaxiExchanges, SequentialAdvance. -/
theorem witness_AdmitGkInstr : plain.config.admitGkInstr = true ∧ unadmitted.config.admitGkInstr = false := by decide

/-- The amounts 0, 1 and 31 of the shifts, in a register (with higher bits set) and as an immediate. -/
theorem witness_Shifts :
    ((0xFFFFFFE0#32 : Word).toNat % 32 = 0 ∧ (1#32 : Word).toNat % 32 = 1 ∧ (0xFFFFFFFF#32 : Word).toNat % 32 = 31) ∧
      (0#5 : BitVec 5).toNat = 0 ∧ (31#5 : BitVec 5).toNat = 31 := by decide

theorem witness_MultiplySigned : (2#5 : Reg) ≠ plain.config.hiReg := by decide

/-- The three clauses of DIV: a zero divisor, the overflow, neither. -/
theorem witness_DivideSigned :
    (start 0#32 0#32 3#32 0#32).reg 1#5 = 0#32 ∧
      ((start 0#32 0xFFFFFFFF#32 0x80000000#32 0#32).reg 2#5 = 0x80000000#32 ∧
        (start 0#32 0xFFFFFFFF#32 0x80000000#32 0#32).reg 1#5 = 0xFFFFFFFF#32) ∧
      (start 0#32 0xFFFFFFFF#32 0x80000001#32 0#32).reg 1#5 ≠ 0#32 ∧
      ¬((start 0#32 0xFFFFFFFF#32 0x80000001#32 0#32).reg 2#5 = 0x80000000#32 ∧
        (start 0#32 0xFFFFFFFF#32 0x80000001#32 0#32).reg 1#5 = 0xFFFFFFFF#32) := by decide

theorem witness_DivideUnsigned :
    (start 0#32 0#32 3#32 0#32).reg 1#5 = 0#32 ∧ (start 0#32 1#32 3#32 0#32).reg 1#5 ≠ 0#32 := by decide

/-- Every condition but 5 and 13 holds somewhere and fails somewhere; 5 always holds, 13 never. -/
theorem witness_BranchesTakenByCondition :
    (List.range 16).all (fun c => c = 13 || (List.range 16).any (fun p => cond (BitVec.ofNat 4 c) (BitVec.ofNat 32 p))) = true ∧
      (List.range 16).all (fun c => c = 5 || (List.range 16).any (fun p => !cond (BitVec.ofNat 4 c) (BitVec.ofNat 32 p))) =
        true := by decide

/-- The numbers of the bank at both ends of its two ranges, and the numbers beside them. -/
theorem witness_LdsrWritesBank :
    (0#5 : SysReg) ∈ sysNumbers ∧ (7#5 : SysReg) ∈ sysNumbers ∧ (24#5 : SysReg) ∈ sysNumbers ∧ (25#5 : SysReg) ∈ sysNumbers ∧
      (8#5 : SysReg) ∉ sysNumbers ∧ (23#5 : SysReg) ∉ sysNumbers ∧ (26#5 : SysReg) ∉ sysNumbers ∧
      (31#5 : SysReg) ∉ sysNumbers := by decide

theorem witness_StsrReadsBank :
    ((25#5 : SysReg), plain.adtre) ∈ [(0#5, plain.eipc), (1#5, plain.eipsw), (2#5, plain.fepc), (3#5, plain.fepsw),
      (4#5, plain.ecr), (5#5, plain.psw), (6#5, plain.config.pirValue), (7#5, plain.config.tkcwValue), (24#5, plain.chcw),
      (25#5, plain.adtre)] ∧ (8#5 : SysReg) ∉ sysNumbers := by decide

/-- The first and the last address of working RAM, and an address no region holds. -/
theorem witness_BusResolution :
    regionsWf defaultConfig.regions = true ∧
      (∃ g ∈ defaultConfig.regions, g.start ≤ maskAddress 0x05000000#32 ∧ maskAddress 0x05000000#32 < g.start + g.size ∧
        g.start ≤ maskAddress 0x0DFFFFFF#32 ∧ maskAddress 0x0DFFFFFF#32 < g.start + g.size) ∧
      busTarget defaultConfig .read .byte 0x0DFFFFFF#32 = .ok (.storage 0x05000000 0xFFFFFF 0x10000) ∧
      busTarget defaultConfig .write .byte 0x01000400#32 = .ok (.device .sound 0x400) ∧
      ∀ g ∈ defaultConfig.regions,
        ¬(g.start ≤ maskAddress 0x03FFFFFF#32 ∧ maskAddress 0x03FFFFFF#32 < g.start + g.size) := by decide

/-- Each clause: a refused direction; an access one byte past the end; the last word inside; and the three kinds. -/
theorem witness_BusChecksInOrder :
    (∃ g, resolve defaultRegions (maskAddress 0x07000000#32) = some g ∧ permits g.capability .write = false) ∧
      (∃ g, resolve defaultRegions (maskAddress 0x05FFFFFD#32) = some g ∧ permits g.capability .read = true ∧
        g.size < maskAddress 0x05FFFFFD#32 - g.start + Width.word.bytes) ∧
      (∃ g, resolve defaultRegions (maskAddress 0x05FFFFFC#32) = some g ∧
        maskAddress 0x05FFFFFC#32 - g.start + Width.word.bytes ≤ g.size ∧ g.kind = .storage 0x10000) ∧
      (∃ g, resolve defaultRegions (maskAddress 0x01000400#32) = some g ∧ permits g.capability .write = true ∧
        g.kind = .device .sound) ∧
      ∃ g, resolve defaultRegions (maskAddress 0x04000000#32) = some g ∧ permits g.capability .read = true ∧
        g.kind = .unimplemented :=
  ⟨⟨_, rfl, rfl⟩, ⟨_, rfl, rfl, by decide⟩, ⟨_, rfl, by decide, rfl⟩, ⟨_, rfl, rfl, rfl⟩, _, rfl, rfl, rfl⟩

/-- A device read with nothing scheduled, with an answer scheduled, with `Unimplemented` scheduled; and a device write. -/
theorem witness_DeviceRequestsAreRecorded :
    busTarget plain.config .read .word 0x02000020#32 = .ok (.device .hardwareControl 0x20) ∧
      busTarget plain.config .write .half 0x01000400#32 = .ok (.device .sound 0x400) ∧ plain.deviceAnswers = [] ∧
      { plain with deviceAnswers := [.done 5#32] }.deviceAnswers = .done 5#32 :: [] ∧
      { plain with deviceAnswers := [.unimplemented] }.deviceAnswers = .unimplemented :: [] := by decide

/-- A load answered by storage, one answered by a device, and one that fails. -/
theorem witness_LoadsExtendBusAnswer :
    (∃ v u, busRead .word ((start 0#32 0x05000100#32 0#32 0#32).reg 1#5 + BitVec.ofInt 32 (0xFFFF#16 : Half).toInt)
        (start 0#32 0x05000100#32 0#32 0#32) = .ok (v, u)) ∧
      (∃ v u, busRead .byte ((start 0#32 0x02000000#32 0#32 0#32).reg 1#5 + BitVec.ofInt 32 (0#16 : Half).toInt)
        { start 0#32 0x02000000#32 0#32 0#32 with deviceAnswers := [.done 5#32] } = .ok (v, u)) ∧
      busRead .half ((start 0#32 0x01000000#32 0#32 0#32).reg 1#5 + BitVec.ofInt 32 (0#16 : Half).toInt)
        (start 0#32 0x01000000#32 0#32 0#32) = .error .permission ∧
      busTarget defaultConfig .read .word ((start 0#32 0x05000100#32 0#32 0#32).reg 1#5 +
        BitVec.ofInt 32 (0xFFFF#16 : Half).toInt) = .ok (.storage 0x05000000 0xFF 0x10000) :=
  ⟨⟨_, _, rfl⟩, ⟨_, _, rfl⟩, rfl, by decide⟩

/-- A store to a device, one that fails, and one to storage: with its backing no cell takes two bytes, with a backing of 2 the last
byte stays. -/
theorem witness_StoresWriteLowBytes :
    (∃ u, busWrite .byte ((start 0#32 0x01000000#32 7#32 0#32).reg 1#5 + BitVec.ofInt 32 (0#16 : Half).toInt) 7#32
        { start 0#32 0x01000000#32 7#32 0#32 with deviceAnswers := [.done 0#32] } = .ok u) ∧
      busWrite .half ((start 0#32 0x07000000#32 7#32 0#32).reg 1#5 + BitVec.ofInt 32 (0#16 : Half).toInt) 7#32
        (start 0#32 0x07000000#32 7#32 0#32) = .error .permission ∧
      busTarget defaultConfig .write .word ((start 0#32 0x05008200#32 7#32 0#32).reg 1#5 +
        BitVec.ofInt 32 (0x8000#16 : Half).toInt) = .ok (.storage 0x05000000 0x200 0x10000) ∧
      (∀ j, j < 4 → 0 < j → cellAddress 0x05000000 0x200 0x10000 j ≠ cellAddress 0x05000000 0x200 0x10000 0) ∧
      cellAddress 0 0 2 3 = cellAddress 0 0 2 1 ∧ ∀ j, j < 4 → 3 < j → cellAddress 0 0 2 j ≠ cellAddress 0 0 2 3 :=
  ⟨⟨_, rfl⟩, rfl, by decide, by decide, by decide, by decide⟩

/-- The last word of the backing store, read back as its last byte through the next mirror. -/
theorem witness_StoreThenLoadMirrors :
    4 ≤ 0x10000 ∧ 3 + Width.byte.bytes ≤ 4 ∧ (0x1FFFF : Nat) % 0x10000 = (0xFFFC + 3) % 0x10000 ∧
      busTarget plain.config .write .word 0x0500FFFC#32 = .ok (.storage 0x05000000 0xFFFC 0x10000) ∧
      (∃ u, busWrite .word 0x0500FFFC#32 0x12345678#32 plain = .ok u) ∧
      busTarget plain.config .read .byte 0x0501FFFF#32 = .ok (.storage 0x05000000 0x1FFFF 0x10000) :=
  ⟨by decide, by decide, by decide, by decide, ⟨_, rfl⟩, by decide⟩

/-- CAXI: both requests completed, both on storage, the read refused, and the write refused (cartridge ROM). -/
theorem witness_CaxiExchanges :
    (∃ m s1 s2, busRead .word 0x05000100#32 plain = .ok (m, s1) ∧
      busWrite .word 0x05000100#32 (if plain.reg 2#5 = m then plain.reg 30#5 else m) s1 = .ok s2) ∧
      (busTarget plain.config .read .word 0x05000100#32 = .ok (.storage 0x05000000 0x100 0x10000) ∧
        busTarget plain.config .write .word 0x05000100#32 = .ok (.storage 0x05000000 0x100 0x10000) ∧
        ∀ j, j < 4 → 0 < j → cellAddress 0x05000000 0x100 0x10000 j ≠ cellAddress 0x05000000 0x100 0x10000 0) ∧
      busRead .word 0x03000000#32 plain = .error .unmapped ∧
      ∃ m s1, busRead .word 0x07000000#32 plain = .ok (m, s1) ∧
        busWrite .word 0x07000000#32 (if plain.reg 2#5 = m then plain.reg 30#5 else m) s1 = .error .permission :=
  ⟨⟨_, _, _, rfl, rfl⟩, by decide, rfl, _, _, rfl, rfl⟩

theorem witness_SubOpcodedAreRefused :
    (Instr.xb 1#5 2#5 0#10, "XB", 0x2000#16) ∈ [(Instr.cmpfS 1#5 2#5 0#10, "CMPF.S", 0x0000#16),
      (.xb 1#5 2#5 0#10, "XB", 0x2000#16)] := by decide

end Sys2Proof.Tests
end

section
/-! PROOFS. The statements on spec/10_state.md: the general registers (R31) and the flags of an addition (R44). -/

namespace Sys2Proof.Machine

open Sys2Proof

/-! ### The fields of the PSW after an addition (R44) -/

@[simp] theorem pswZ_setAddFlags (p a b : Word) : pswZ (setAddFlags p a b) = decide (a + b = 0#32) :=
  getLsbD_setAddFlags p a b 0

@[simp] theorem pswS_setAddFlags (p a b : Word) : pswS (setAddFlags p a b) = (a + b).getLsbD 31 :=
  getLsbD_setAddFlags p a b 1

@[simp] theorem pswOV_setAddFlags (p a b : Word) :
    pswOV (setAddFlags p a b) = ((a ^^^ (a + b)) &&& (b ^^^ (a + b))).getLsbD 31 :=
  getLsbD_setAddFlags p a b 2

@[simp] theorem pswCY_setAddFlags (p a b : Word) :
    pswCY (setAddFlags p a b) = decide (2 ^ 32 ≤ a.toNat + b.toNat) :=
  getLsbD_setAddFlags p a b 3

/-! ### Signed overflow -/

/-- An integer differs from its residue as a 32-bit two's complement number exactly where it is out of that range. -/
theorem ne_bmod_two_pow_32_iff (x : Int) : x ≠ x.bmod (2 ^ 32) ↔ x < -2 ^ 31 ∨ 2 ^ 31 ≤ x := by
  rw [Int.bmod_def]
  split <;> omega

/-- The overflow bit of R44 is set exactly where the signed sum does not fit a word. -/
theorem addOverflow_eq_decide_toInt_ne (a b : Word) :
    ((a ^^^ (a + b)) &&& (b ^^^ (a + b))).getLsbD 31 = decide (a.toInt + b.toInt ≠ (a + b).toInt) := by
  rw [Bool.eq_iff_iff, decide_eq_true_iff, add_overflow_iff, BitVec.toInt_add, ne_bmod_two_pow_32_iff]

/-! ### The statements -/

/-- Settles O29: each field is a bit of the PSW after the addition, and the overflow bit is signed overflow. -/
theorem addFlagRule : Obligations.AddFlagRule := by
  intro p a b
  have overflow : pswOV (setAddFlags p a b) = decide (a.toInt + b.toInt ≠ (a + b).toInt) :=
    (pswOV_setAddFlags p a b).trans (addOverflow_eq_decide_toInt_ne a b)
  exact ⟨pswCY_setAddFlags p a b, pswZ_setAddFlags p a b, pswS_setAddFlags p a b, pswOV_setAddFlags p a b, overflow,
    fun _ hi => getLsbD_setAddFlags_of_ge p a b hi⟩

/-- Settles O28, from the rules of a register read after a register write. -/
theorem registerZeroIsHardwired : Obligations.RegisterZeroIsHardwired := by
  intro s r q v
  have readBack (hr : r ≠ 0#5) : (s.setReg r v).reg r = v := by rw [State.setReg_reg_same, if_neg hr]
  exact ⟨s.reg_zero, s.setReg_zero v, readBack, s.setReg_reg_ne v⟩

end Sys2Proof.Machine
end

section
/-! PROOFS. The statement on spec/20_memory.md: masking (R98) and resolution (R99). -/

namespace Sys2Proof.Machine

open Sys2Proof

/-! ### Masking (R98) -/

/-- The mask `0x07FFFFFF` is the remainder modulo 2^27. -/
theorem maskAddress_eq_mod (addr : Word) : maskAddress addr = addr.toNat % 2 ^ 27 :=
  (BitVec.toNat_and addr 0x07FFFFFF#32).trans (Nat.and_two_pow_sub_one_eq_mod addr.toNat 27)

/-! ### Resolution (R99) -/

/-- No region is found exactly where none of the table holds the address. -/
theorem resolve_eq_none_iff {l : List Region} {m : Nat} :
    resolve l m = none ↔ ∀ g ∈ l, ¬(g.start ≤ m ∧ m < g.start + g.size) := by
  simp only [resolve, List.find?_eq_none, Region.holds, decide_eq_true_eq]

/-- In a table of regions that do not overlap the region found is the one that holds the address. -/
theorem resolve_eq_some_iff {l : List Region} {m : Nat} {g : Region} (hw : regionsWf l = true) :
    resolve l m = some g ↔ g ∈ l ∧ g.start ≤ m ∧ m < g.start + g.size := by
  refine ⟨resolve_mem, fun ⟨hg, hlo, hhi⟩ => ?_⟩
  cases hr : resolve l m with
  | none => exact absurd ⟨hlo, hhi⟩ (resolve_eq_none_iff.mp hr g hg)
  | some x =>
    obtain ⟨hx, xlo, xhi⟩ := resolve_mem hr
    rw [region_unique hw g hg x hx hlo hhi xlo xhi]

/-! ### Requests (R100) -/

/-- An address that no region holds is `Unmapped` for every request. -/
theorem busTarget_unmapped {c : Config} {addr : Word} (h : resolve c.regions (maskAddress addr) = none)
    (dir : Direction) (n : Width) : busTarget c dir n addr = .error .unmapped := by
  simp only [busTarget, h]

/-- An access that reaches a device: its region, and the checks passed. -/
theorem busTarget_device {c : Config} {dir : Direction} {n : Width} {addr : Word} {d : Device} {off : Nat}
    (h : busTarget c dir n addr = .ok (.device d off)) :
    ∃ g, resolve c.regions (maskAddress addr) = some g ∧ permits g.capability dir = true ∧
      g.kind = .device d ∧ maskAddress addr - g.start = off ∧ off + n.bytes ≤ g.size := by
  unfold busTarget at h
  split at h
  · cases h
  next g hg =>
    split at h
    next hp =>
      split at h
      · cases h
      next hs =>
        split at h <;> cases h
        next hk => exact ⟨g, hg, hp, hk, rfl, Nat.not_lt.mp hs⟩
    · cases h

/-! ### The statement -/

/-- Settles O53: the region that holds the address is the one `resolve` finds, and the target of a request lies in the region found. -/
theorem busResolution : Obligations.BusResolution := by
  intro c addr hw
  refine ⟨maskAddress_eq_mod addr, fun g h hg hh glo ghi hlo hhi => region_unique hw g hg h hh glo ghi hlo hhi,
    fun g hg hlo hhi => ?_, fun hnone => busTarget_unmapped (resolve_eq_none_iff.mpr hnone)⟩
  have found : resolve c.regions (maskAddress addr) = some g := (resolve_eq_some_iff hw).mpr ⟨hg, hlo, hhi⟩
  refine ⟨found, fun dir n => ⟨fun start off backing ht => ?storage, fun d off ht => ?device⟩⟩
  case storage =>
    obtain ⟨x, hx, -, -, hstart, hoff, -⟩ := busTarget_storage ht
    cases found.symm.trans hx
    exact ⟨hstart.symm, hoff.symm⟩
  case device =>
    obtain ⟨x, hx, -, -, hoff, -⟩ := busTarget_device ht
    cases found.symm.trans hx
    exact hoff.symm

end Sys2Proof.Machine
end

section
/-! PROOFS. The statement on spec/30_encoding.md: decoding after encoding (R160), on half-words and on bytes. -/

namespace Sys2Proof.Machine

open Sys2Proof Sys2Proof.Laws

/-! ### Every instruction, by the lemmas of its constructor -/

/-- The half-words of every well-formed instruction decode to it: one case per constructor, in the table's order. -/
theorem decode_word0_word1 {i : Instr} (hwf : i.wellFormed = true) : decode (word0 i) ((word1 i).getD 0#16) = i :=
  Instr.rec (motive := DecodeEncode.Statement)
    DecodeEncode.mov DecodeEncode.add DecodeEncode.sub DecodeEncode.cmp DecodeEncode.shl DecodeEncode.shr
    DecodeEncode.jmp DecodeEncode.sar DecodeEncode.mul DecodeEncode.div DecodeEncode.mulu DecodeEncode.divu
    DecodeEncode.or DecodeEncode.and DecodeEncode.xor DecodeEncode.not DecodeEncode.movImm DecodeEncode.addImm
    DecodeEncode.setf DecodeEncode.cmpImm DecodeEncode.shlImm DecodeEncode.shrImm DecodeEncode.cli DecodeEncode.sarImm
    DecodeEncode.trap DecodeEncode.reti DecodeEncode.halt DecodeEncode.illegal1B DecodeEncode.ldsr DecodeEncode.stsr
    DecodeEncode.sei DecodeEncode.bitstring DecodeEncode.bv DecodeEncode.bc DecodeEncode.be DecodeEncode.bnh
    DecodeEncode.bn DecodeEncode.br DecodeEncode.blt DecodeEncode.ble DecodeEncode.bnv DecodeEncode.bnc
    DecodeEncode.bne DecodeEncode.bh DecodeEncode.bp DecodeEncode.nop DecodeEncode.bge DecodeEncode.bgt
    DecodeEncode.movea DecodeEncode.addi DecodeEncode.jr DecodeEncode.jal DecodeEncode.ori DecodeEncode.andi
    DecodeEncode.xori DecodeEncode.movhi DecodeEncode.ldB DecodeEncode.ldH DecodeEncode.illegal32 DecodeEncode.ldW
    DecodeEncode.stB DecodeEncode.stH DecodeEncode.illegal36 DecodeEncode.stW DecodeEncode.inB DecodeEncode.inH
    DecodeEncode.caxi DecodeEncode.inW DecodeEncode.outB DecodeEncode.outH DecodeEncode.cmpfS DecodeEncode.cvtWS
    DecodeEncode.cvtSW DecodeEncode.addfS DecodeEncode.subfS DecodeEncode.mulfS DecodeEncode.divfS DecodeEncode.xb
    DecodeEncode.xh DecodeEncode.rev DecodeEncode.trncSW DecodeEncode.mpyhw DecodeEncode.illegal3E01
    DecodeEncode.illegal3E0D DecodeEncode.illegal3E0E DecodeEncode.illegal3E10 DecodeEncode.illegal3E20
    DecodeEncode.outW
    i hwf

/-- The first half-word of every instruction tells how long its encoding is (R142). -/
theorem instrLength_word0 (i : Instr) : instrLength (word0 i) = 2 * (encode i).length :=
  Instr.rec (motive := EncodedLength.Statement)
    EncodedLength.mov EncodedLength.add EncodedLength.sub EncodedLength.cmp EncodedLength.shl EncodedLength.shr
    EncodedLength.jmp EncodedLength.sar EncodedLength.mul EncodedLength.div EncodedLength.mulu EncodedLength.divu
    EncodedLength.or EncodedLength.and EncodedLength.xor EncodedLength.not EncodedLength.movImm EncodedLength.addImm
    EncodedLength.setf EncodedLength.cmpImm EncodedLength.shlImm EncodedLength.shrImm EncodedLength.cli
    EncodedLength.sarImm EncodedLength.trap EncodedLength.reti EncodedLength.halt EncodedLength.illegal1B
    EncodedLength.ldsr EncodedLength.stsr EncodedLength.sei EncodedLength.bitstring EncodedLength.bv EncodedLength.bc
    EncodedLength.be EncodedLength.bnh EncodedLength.bn EncodedLength.br EncodedLength.blt EncodedLength.ble
    EncodedLength.bnv EncodedLength.bnc EncodedLength.bne EncodedLength.bh EncodedLength.bp EncodedLength.nop
    EncodedLength.bge EncodedLength.bgt EncodedLength.movea EncodedLength.addi EncodedLength.jr EncodedLength.jal
    EncodedLength.ori EncodedLength.andi EncodedLength.xori EncodedLength.movhi EncodedLength.ldB EncodedLength.ldH
    EncodedLength.illegal32 EncodedLength.ldW EncodedLength.stB EncodedLength.stH EncodedLength.illegal36
    EncodedLength.stW EncodedLength.inB EncodedLength.inH EncodedLength.caxi EncodedLength.inW EncodedLength.outB
    EncodedLength.outH EncodedLength.cmpfS EncodedLength.cvtWS EncodedLength.cvtSW EncodedLength.addfS
    EncodedLength.subfS EncodedLength.mulfS EncodedLength.divfS EncodedLength.xb EncodedLength.xh EncodedLength.rev
    EncodedLength.trncSW EncodedLength.mpyhw EncodedLength.illegal3E01 EncodedLength.illegal3E0D
    EncodedLength.illegal3E0E EncodedLength.illegal3E10 EncodedLength.illegal3E20 EncodedLength.outW
    i

theorem instrLength_word0_of_none {i : Instr} (h : word1 i = none) : instrLength (word0 i) = 2 := by
  rw [instrLength_word0, encode, h]
  rfl

theorem instrLength_word0_of_some {i : Instr} {w1 : Half} (h : word1 i = some w1) : instrLength (word0 i) = 4 := by
  rw [instrLength_word0, encode, h]
  rfl

/-! ### The bytes of an instruction (R106, R141) -/

theorem encodeBytes_of_none {i : Instr} (h : word1 i = none) : encodeBytes i = bytesOfHalf (word0 i) := by
  rw [encodeBytes, encode, h]
  rfl

theorem encodeBytes_of_some {i : Instr} {w1 : Half} (h : word1 i = some w1) :
    encodeBytes i = bytesOfHalf (word0 i) ++ bytesOfHalf w1 := by
  rw [encodeBytes, encode, h]
  rfl

/-- Where the length is 2 the bytes behind the first half-word are not read. -/
theorem decodeBytes_two {w0 : Half} (h : instrLength w0 = 2) (rest : List Byte) :
    decodeBytes (bytesOfHalf w0 ++ rest) = .ok (decode w0 0#16) := by
  simp only [bytesOfHalf, List.cons_append, List.nil_append, decodeBytes, halfOfBytes_bytes, h, if_true]

/-- Where the length is 4 exactly two half-words are read. -/
theorem decodeBytes_four {w0 : Half} (h : instrLength w0 = 4) (w1 : Half) (rest : List Byte) :
    decodeBytes (bytesOfHalf w0 ++ bytesOfHalf w1 ++ rest) = .ok (decode w0 w1) := by
  have hne : instrLength w0 ≠ 2 := by omega
  simp only [bytesOfHalf, List.cons_append, List.nil_append, decodeBytes, halfOfBytes_bytes, if_neg hne]

/-- Decoding the bytes of an instruction is decoding its half-words: the decoder reads as many bytes as the encoder wrote. -/
theorem decodeBytes_encodeBytes (i : Instr) (rest : List Byte) :
    decodeBytes (encodeBytes i ++ rest) = .ok (decode (word0 i) ((word1 i).getD 0#16)) := by
  cases h : word1 i with
  | none => rw [encodeBytes_of_none h, decodeBytes_two (instrLength_word0_of_none h), Option.getD_none]
  | some w1 => rw [encodeBytes_of_some h, decodeBytes_four (instrLength_word0_of_some h), Option.getD_some]

/-! ### The statement -/

/-- Settles O2: the bytes decode as the half-words do, and these give the instruction back, constructor by constructor. -/
theorem decodeAfterEncode : Obligations.DecodeAfterEncode := by
  intro i hwf
  have halves : decode (word0 i) ((word1 i).getD 0#16) = i := decode_word0_word1 hwf
  exact ⟨halves, fun rest => (decodeBytes_encodeBytes i rest).trans (congrArg Except.ok halves)⟩

end Sys2Proof.Machine
end

section
/-! PROOFS. The statements on spec/41_arith_logic.md and on the like instructions of 45_immediate16.md: moves, subtraction and
comparison, logic. -/

namespace Sys2Proof.Machine

open Sys2Proof

/-! ### Immediates (30_encoding.md R153) -/

/-- Sign extension keeps the signed value. -/
theorem sext_eq_ofInt_toInt {n : Nat} (v : BitVec n) : sext v = BitVec.ofInt 32 v.toInt := rfl

/-- Zero extension keeps the unsigned value. -/
theorem immUnsigned16_eq_ofNat_toNat (imm16 : Half) : immUnsigned16 imm16 = BitVec.ofNat 32 imm16.toNat :=
  BitVec.eq_of_toNat_eq (by rw [immUnsigned16, zext, BitVec.toNat_setWidth, BitVec.toNat_ofNat])

/-- The high immediate is its zero extension, moved up by 16. -/
theorem immHigh16_eq_shiftLeft (imm16 : Half) : immHigh16 imm16 = imm16.setWidth 32 <<< 16 := by
  rw [immHigh16, BitVec.append_def, BitVec.shiftLeftZeroExtend_eq, BitVec.setWidth'_eq, BitVec.setWidth_zero, BitVec.or_zero]

/-! ### Encodings (30_encoding.md R144 to R150) -/

/-- An instruction of one half-word, by its opcode and register fields. -/
theorem encodes2_of_formRegs {i : Instr} (op : BitVec 6) {reg2 : Reg} {reg1 : BitVec 5}
    (h0 : word0 i = formRegs op reg2 reg1) (h1 : word1 i = none) :
    encodes2 i (wordRegs (op.setWidth 16 <<< 10) reg2 reg1) :=
  ⟨h0.trans (formRegs_eq op reg2 reg1), h1⟩

/-- An instruction of two half-words, by its opcode and register fields and its second half-word. -/
theorem encodes4_of_formRegs {i : Instr} (op : BitVec 6) {reg2 : Reg} {reg1 : BitVec 5} {w1 : Half}
    (h0 : word0 i = formRegs op reg2 reg1) (h1 : word1 i = some w1) :
    encodes4 i (wordRegs (op.setWidth 16 <<< 10) reg2 reg1) w1 :=
  ⟨h0.trans (formRegs_eq op reg2 reg1), h1⟩

/-! ### The end of an instruction -/

/-- A register written just before the end of the instruction holds the value, register 0 staying 0 (10_state.md R31). -/
theorem wrote_setReg_retire (s : State) (r : Reg) (v length : Word) (n : Nat) :
    wrote r v ((s.setReg r v).retire length n) := by
  rw [wrote, State.retire_reg, State.setReg_reg_same]

/-- An instruction that has not moved `pc` before its end moves it by its length (10_state.md R37). -/
theorem retired_retire {s t : State} (h : t.pc = s.pc) (length : Word) (n : Nat) :
    retired length n s (t.retire length n) :=
  ⟨by rw [State.retire_pc, h], State.retire_cycles t length n⟩

/-! ### Flags -/

/-- Z and S follow a result where they are its zero test and its top bit. -/
theorem zeroSign_intro {r : Word} {t : State} (hz : pswZ t.psw = decide (r = 0#32)) (hs : pswS t.psw = r.getLsbD 31) :
    zeroSign r t :=
  ⟨by rw [hz, decide_eq_true_iff], by rw [hs, getLsbD_31_iff]⟩

/-- A PSW that the subtraction rule left holds the flags of the subtraction (10_state.md R45). -/
theorem subFlags_of_psw (p : Word) {a b : Word} {t : State} (h : t.psw = setSubFlags p a b) : subFlags a b t := by
  have bit (i : Nat) := h ▸ getLsbD_setSubFlags p a b i
  have carry : pswCY t.psw = decide (a.toNat < b.toNat) := bit 3
  have overflow : pswOV t.psw = ((a ^^^ b) &&& (a ^^^ (a - b))).getLsbD 31 := bit 2
  exact ⟨zeroSign_intro (bit 0) (bit 1), by rw [carry, decide_eq_true_iff], by rw [overflow, sub_overflow_iff]⟩

/-- The subtraction rule keeps every bit but the four flags. -/
theorem setSubFlags_keeps (p a b : Word) : ∀ i, i ∉ flagBits → (setSubFlags p a b).getLsbD i = p.getLsbD i := by
  intro i hi
  simp only [flagBits, List.mem_cons, List.not_mem_nil, or_false, not_or] at hi
  exact getLsbD_setSubFlags_of_ge p a b (by omega)

/-- The logical rule keeps every bit but Z, S and OV, so CY too (10_state.md R46). -/
theorem setLogicFlags_keeps (p r : Word) : ∀ i, i ∉ [0, 1, 2] → (setLogicFlags p r).getLsbD i = p.getLsbD i := by
  intro i hi
  simp only [List.mem_cons, List.not_mem_nil, or_false, not_or] at hi
  obtain ⟨h0, h1, h2⟩ := hi
  rw [getLsbD_setLogicFlags, if_neg h0, if_neg h1, if_neg h2]

/-! ### The shared operations of the two families -/

/-- An instruction that writes the register and ends moves a value. -/
theorem movesValue_of_exec {i : Instr} {reg2 : Reg} {length : Word} {v : State → Word} {n : Config → Nat}
    (h : ∀ s, exec i s = .next ((s.setReg reg2 (v s)).retire length (n s.config))) :
    movesValue i reg2 length v n := fun s =>
  ⟨_, h s, wrote_setReg_retire s reg2 (v s) length _, frame_setReg_retire s reg2 (v s) length _,
    retired_retire (State.setReg_pc s reg2 (v s)) length _⟩

/-- An instruction that applies the logical rule, writes the register and ends is a logical one. -/
theorem writesLogic_of_exec {i : Instr} {reg2 : Reg} {length : Word} {r : State → Word} {n : Config → Nat}
    (h : ∀ s, exec i s =
      .next (((s.setPsw (setLogicFlags s.psw (r s))).setReg reg2 (r s)).retire length (n s.config))) :
    writesLogic i reg2 length r n := by
  intro s
  have bit (k : Nat) := getLsbD_setLogicFlags s.psw (r s) k
  refine ⟨_, h s, wrote_setReg_retire _ reg2 (r s) length _, zeroSign_intro ?z ?s, ?ov,
    frame_setPsw_setReg_retire s _ _ reg2 (r s) length _ (setLogicFlags_keeps s.psw (r s)), retired_retire ?pc length _⟩
  case pc => rw [State.setReg_pc, State.setPsw_pc]
  all_goals rw [State.retire_psw, State.setReg_psw, State.setPsw_psw]
  case z => exact bit 0
  case s => exact bit 1
  case ov => exact bit 2

/-- The comparison of `a` with `b` completes with the flags of the subtraction and writes no register. -/
theorem aluCompare_completes (a b : Word) (s : State) :
    ∃ t, aluCompare a b s = .next t ∧ subFlags a b t ∧ frame [] flagBits [] s t ∧
      retired 2#32 s.config.cycles.alu s t :=
  ⟨_, rfl, subFlags_of_psw s.psw (State.retire_psw _ _ _), frame_setPsw_retire s _ _ _ _ (setSubFlags_keeps s.psw a b),
    retired_retire (State.setPsw_pc s _) _ _⟩

/-- SUB completes with the flags of the subtraction and writes the difference. -/
theorem execSub_completes (reg1 reg2 : Reg) (s : State) :
    ∃ t, execSub reg1 reg2 s = .next t ∧ wrote reg2 (s.reg reg2 - s.reg reg1) t ∧
      subFlags (s.reg reg2) (s.reg reg1) t ∧ frame [reg2] flagBits [] s t ∧ retired 2#32 s.config.cycles.alu s t := by
  refine ⟨_, rfl, wrote_setReg_retire _ reg2 _ _ _, subFlags_of_psw s.psw ?psw,
    frame_setPsw_setReg_retire s _ _ reg2 _ _ _ (setSubFlags_keeps s.psw _ _), retired_retire ?pc _ _⟩
  case psw => rw [State.retire_psw, State.setReg_psw, State.setPsw_psw]
  case pc => rw [State.setReg_pc, State.setPsw_pc]

/-! ### The statements -/

/-- Settles O34: the four instructions are one register write; the immediates are the extensions the rules name. -/
theorem moveWritesValueOnly : Obligations.MoveWritesValueOnly := by
  intro reg1 reg2 imm5 imm16
  refine ⟨⟨encodes2_of_formRegs 0x00#6 rfl rfl, ?mov⟩, ⟨encodes2_of_formRegs 0x10#6 rfl rfl, ?movImm⟩,
    ⟨encodes4_of_formRegs 0x28#6 rfl rfl, ?movea⟩, ⟨encodes4_of_formRegs 0x2F#6 rfl rfl, ?movhi⟩⟩
  case mov => exact movesValue_of_exec fun _ => rfl
  case movImm =>
    rw [← sext_eq_ofInt_toInt]
    exact movesValue_of_exec fun _ => rfl
  case movea =>
    rw [← sext_eq_ofInt_toInt]
    exact movesValue_of_exec fun _ => rfl
  case movhi =>
    rw [← immHigh16_eq_shiftLeft]
    exact movesValue_of_exec fun _ => rfl

/-- Settles O36: SUB by its own rule, CMP in both forms by the comparison they share. -/
theorem subtractAndCompare : Obligations.SubtractAndCompare := by
  intro reg1 reg2 imm5 s
  refine ⟨⟨encodes2_of_formRegs 0x02#6 rfl rfl, execSub_completes reg1 reg2 s⟩,
    ⟨encodes2_of_formRegs 0x03#6 rfl rfl, aluCompare_completes (s.reg reg2) (s.reg reg1) s⟩,
    ⟨encodes2_of_formRegs 0x13#6 rfl rfl, ?cmpImm⟩⟩
  rw [← sext_eq_ofInt_toInt]
  exact aluCompare_completes (s.reg reg2) (immSigned5 imm5) s

/-- Settles O37: the seven instructions are one logical operation; the immediates are zero-extended. -/
theorem logicalOperations : Obligations.LogicalOperations := by
  intro reg1 reg2 imm16
  rw [← immUnsigned16_eq_ofNat_toNat]
  exact ⟨⟨encodes2_of_formRegs 0x0C#6 rfl rfl, writesLogic_of_exec fun _ => rfl⟩,
    ⟨encodes2_of_formRegs 0x0D#6 rfl rfl, writesLogic_of_exec fun _ => rfl⟩,
    ⟨encodes2_of_formRegs 0x0E#6 rfl rfl, writesLogic_of_exec fun _ => rfl⟩,
    ⟨encodes2_of_formRegs 0x0F#6 rfl rfl, writesLogic_of_exec fun _ => rfl⟩,
    ⟨encodes4_of_formRegs 0x2C#6 rfl rfl, writesLogic_of_exec fun _ => rfl⟩,
    ⟨encodes4_of_formRegs 0x2D#6 rfl rfl, writesLogic_of_exec fun _ => rfl⟩,
    ⟨encodes4_of_formRegs 0x2E#6 rfl rfl, writesLogic_of_exec fun _ => rfl⟩⟩

end Sys2Proof.Machine
end

section
/-! PROOFS. The statements on spec/42_shift.md: SHL, SHR and SAR, each in its register form and its immediate form. -/

namespace Sys2Proof.Machine

open Sys2Proof

/-! ### The amount (R270, R276) -/

/-- The register forms take the amount modulo 32, so 32 acts as 0 and 33 as 1 (R270). -/
theorem shiftReg_eq_toNat_mod (v : Word) : shiftReg v = v.toNat % 32 := by
  rw [shiftReg, BitVec.extractLsb'_toNat, Nat.shiftRight_zero]

/-! ### The shifted value as arithmetic -/

/-- Shifting left multiplies by a power of two, modulo 2^32. -/
theorem shiftLeft_eq_ofNat_mul (v : Word) (n : Nat) : v <<< n = BitVec.ofNat 32 (v.toNat * 2 ^ n) :=
  BitVec.eq_of_toNat_eq (by rw [BitVec.toNat_shiftLeft, Nat.shiftLeft_eq, BitVec.toNat_ofNat])

/-- Shifting right with zeros entering divides the unsigned value by a power of two. -/
theorem ushiftRight_eq_ofNat_div (v : Word) (n : Nat) : v >>> n = BitVec.ofNat 32 (v.toNat / 2 ^ n) := by
  rw [← Nat.shiftRight_eq_div_pow, ← BitVec.toNat_ushiftRight, BitVec.ofNat_toNat, BitVec.setWidth_eq]

/-- Shifting right with the sign entering divides the signed value by a power of two, rounding down. -/
theorem sshiftRight_eq_ofInt_div (v : Word) (n : Nat) : v.sshiftRight n = BitVec.ofInt 32 (v.toInt / 2 ^ n) := by
  rw [BitVec.sshiftRight, Int.shiftRight_eq_div_pow, Nat.cast_pow, Nat.cast_ofNat]

/-! ### Flags (10_state.md R47) -/

/-- The shift rule keeps every bit but the four flags. -/
theorem setShiftFlags_keeps (p r : Word) (n : Nat) (c : Bool) :
    ∀ i, i ∉ flagBits → (setShiftFlags p r n c).getLsbD i = p.getLsbD i := by
  intro i hi
  simp only [flagBits, List.mem_cons, List.not_mem_nil, or_false, not_or] at hi
  obtain ⟨h0, h1, h2, h3⟩ := hi
  rw [getLsbD_setShiftFlags, if_neg h0, if_neg h1, if_neg h2, if_neg fun h => h3 h.1]

/-- CY is the bit given, but a shift by 0 leaves it as it was (42_shift.md R277). -/
theorem pswCY_setShiftFlags (p r : Word) (n : Nat) (c : Bool) :
    pswCY (setShiftFlags p r n c) = if n = 0 then pswCY p else c := by
  have carry : pswCY (setShiftFlags p r n c) = if 3 = 3 ∧ n ≠ 0 then c else pswCY p := getLsbD_setShiftFlags p r n c 3
  simp only [carry, true_and, ite_not]

/-! ### The shared operation -/

/-- An instruction that ends in the shared operation, with bit `k` of the old value as the last bit out, is a shift. -/
theorem writesShift_of_shiftInto {i : Instr} {s : State} {reg2 : Reg} {r : Word} {n k : Nat}
    (h : exec i s = shiftInto reg2 r n ((s.reg reg2).getLsbD k) s) : writesShift i s reg2 n k r := by
  have bit (j : Nat) := getLsbD_setShiftFlags s.psw r n ((s.reg reg2).getLsbD k) j
  refine ⟨_, h, wrote_setReg_retire _ reg2 r _ _, zeroSign_intro ?z ?s, ?ov, fun hn => ?kept, fun hn => ?out,
    frame_setPsw_setReg_retire s _ _ reg2 r _ _ (setShiftFlags_keeps s.psw r n _), retired_retire ?pc _ _⟩
  case pc => rw [State.setReg_pc, State.setPsw_pc]
  all_goals rw [State.retire_psw, State.setReg_psw, State.setPsw_psw]
  case z => exact bit 0
  case s => exact bit 1
  case ov => exact bit 2
  case kept => rw [pswCY_setShiftFlags, if_pos hn]
  case out => rw [pswCY_setShiftFlags, if_neg hn.ne']

/-! ### The three shifts -/

section
variable {i : Instr} {s : State} {reg2 : Reg} {n : Nat}

/-- A shift left multiplies, and bit `32 - n` is the last one out (R270). -/
theorem writesShift_of_shiftLeft (h : exec i s = shiftLeft reg2 n s) :
    writesShift i s reg2 n (32 - n) (BitVec.ofNat 32 ((s.reg reg2).toNat * 2 ^ n)) := by
  rw [← shiftLeft_eq_ofNat_mul]
  exact writesShift_of_shiftInto h

/-- A shift right with zeros entering divides the unsigned value, and bit `n - 1` is the last one out (R271). -/
theorem writesShift_of_shiftRightLogical (h : exec i s = shiftRightLogical reg2 n s) :
    writesShift i s reg2 n (n - 1) (BitVec.ofNat 32 ((s.reg reg2).toNat / 2 ^ n)) := by
  rw [← ushiftRight_eq_ofNat_div]
  exact writesShift_of_shiftInto h

/-- A shift right with the sign entering divides the signed value, and bit `n - 1` is the last one out (R272). -/
theorem writesShift_of_shiftRightArith (h : exec i s = shiftRightArith reg2 n s) :
    writesShift i s reg2 n (n - 1) (BitVec.ofInt 32 ((s.reg reg2).toInt / 2 ^ n)) := by
  rw [← sshiftRight_eq_ofInt_div]
  exact writesShift_of_shiftInto h

end

/-! ### The statements, in a namespace of their own: the model's operations bear two of their names -/

namespace Shift

/-- Settles O39: both forms are the shift left, by the low five bits of the register or by the immediate. -/
theorem shiftLeft : Obligations.ShiftLeft := by
  intro reg1 reg2 imm5 s
  rw [← shiftReg_eq_toNat_mod]
  exact ⟨⟨encodes2_of_formRegs 0x04#6 rfl rfl, writesShift_of_shiftLeft rfl⟩,
    ⟨encodes2_of_formRegs 0x14#6 rfl rfl, writesShift_of_shiftLeft rfl⟩⟩

/-- Settles O40: both forms are the shift right with zeros entering. -/
theorem shiftRightLogical : Obligations.ShiftRightLogical := by
  intro reg1 reg2 imm5 s
  rw [← shiftReg_eq_toNat_mod]
  exact ⟨⟨encodes2_of_formRegs 0x05#6 rfl rfl, writesShift_of_shiftRightLogical rfl⟩,
    ⟨encodes2_of_formRegs 0x15#6 rfl rfl, writesShift_of_shiftRightLogical rfl⟩⟩

/-- Settles O41: both forms are the shift right with the sign entering. -/
theorem shiftRightArithmetic : Obligations.ShiftRightArithmetic := by
  intro reg1 reg2 imm5 s
  rw [← shiftReg_eq_toNat_mod]
  exact ⟨⟨encodes2_of_formRegs 0x07#6 rfl rfl, writesShift_of_shiftRightArith rfl⟩,
    ⟨encodes2_of_formRegs 0x17#6 rfl rfl, writesShift_of_shiftRightArith rfl⟩⟩

end Shift

end Sys2Proof.Machine
end

section
/-! PROOFS. The statements on spec/43_muldiv.md: MUL, DIV and DIVU. -/

namespace Sys2Proof.Machine

open Sys2Proof

/-! ### Flags (10_state.md R48) -/

/-- The multiply and divide rule keeps every bit but Z, S and OV, so CY too. -/
theorem setMulDivFlags_keeps (p lo : Word) (ov : Bool) :
    ∀ i, i ∉ [0, 1, 2] → (setMulDivFlags p lo ov).getLsbD i = p.getLsbD i := by
  intro i hi
  simp only [List.mem_cons, List.not_mem_nil, or_false, not_or] at hi
  obtain ⟨h0, h1, h2⟩ := hi
  rw [getLsbD_setMulDivFlags, if_neg h0, if_neg h1, if_neg h2]

/-! ### The pair of registers -/

/-- The PSW and two registers written. -/
theorem frame_setPsw_setReg_setReg_retire (s : State) (p : Word) (flags : List Nat) (r q : Reg) (v u l : Word) (n : Nat)
    (h : ∀ i, i ∉ flags → p.getLsbD i = s.psw.getLsbD i) :
    frame [q, r] flags [] s ((((s.setPsw p).setReg r v).setReg q u).retire l n) := by
  refine frame_intro (fun k hk => ?regs) (fun i hi => by simpa using h i hi)
    (by simp [systemKept, controlKept, devicesKept])
  case regs =>
    simp only [List.mem_cons, List.not_mem_nil, or_false, not_or] at hk
    obtain ⟨hq, hr⟩ := hk
    rw [State.retire_reg, State.setReg_reg_ne _ _ hq, State.setReg_reg_ne _ _ hr, State.setPsw_reg]

/-- A register still holds what it was given before another was written. -/
theorem wrote_setReg_setReg_retire (s : State) {r q : Reg} (v u length : Word) (n : Nat) (hqr : q ≠ r) :
    wrote r v (((s.setReg r v).setReg q u).retire length n) := by
  rw [wrote, State.retire_reg, State.setReg_reg_ne _ _ hqr.symm, State.setReg_reg_same]

/-- An instruction that ends in the common end of multiply and divide writes the pair (R290). -/
theorem writesPair_of_writeHiLo {i : Instr} {s : State} {reg2 : Reg} {hi lo : Word} {o : Bool} {ov : Prop} {n : Nat}
    (h : exec i s = writeHiLo reg2 hi lo o n s) (hov : o = true ↔ ov) : writesPair i s reg2 hi lo ov n := by
  have bit (k : Nat) := getLsbD_setMulDivFlags s.psw lo o k
  have overflow : pswOV (setMulDivFlags s.psw lo o) = o := bit 2
  refine ⟨_, h, wrote_setReg_retire _ reg2 lo _ _, wrote_setReg_setReg_retire _ hi lo _ _, zeroSign_intro ?z ?s, ?ov,
    frame_setPsw_setReg_setReg_retire s _ _ _ reg2 hi lo _ _ (setMulDivFlags_keeps s.psw lo o), retired_retire ?pc _ _⟩
  case pc => rw [State.setReg_pc, State.setReg_pc, State.setPsw_pc]
  all_goals rw [State.retire_psw, State.setReg_psw, State.setReg_psw, State.setPsw_psw]
  case z => exact bit 0
  case s => exact bit 1
  case ov => rw [overflow, hov]

/-! ### The 64-bit product (R290) -/

/-- The low word of a 64-bit integer is its residue. -/
theorem extractLsb'_zero_ofInt (x : Int) : (BitVec.ofInt 64 x).extractLsb' 0 32 = BitVec.ofInt 32 x := by
  apply BitVec.eq_of_toNat_eq
  rw [BitVec.extractLsb'_toNat, Nat.shiftRight_zero, BitVec.toNat_ofInt, BitVec.toNat_ofInt]
  omega

/-- The high word of a 64-bit integer is its quotient by 2^32, rounded down. -/
theorem extractLsb'_32_ofInt (x : Int) : (BitVec.ofInt 64 x).extractLsb' 32 32 = BitVec.ofInt 32 (x / 2 ^ 32) := by
  apply BitVec.eq_of_toNat_eq
  rw [BitVec.extractLsb'_toNat, Nat.shiftRight_eq_div_pow, BitVec.toNat_ofInt, BitVec.toNat_ofInt]
  omega

/-- An integer differs from the word it leaves exactly where it does not fit 32 bits signed. -/
theorem ne_toInt_ofInt_iff (x : Int) : x ≠ (BitVec.ofInt 32 x).toInt ↔ x < -2 ^ 31 ∨ 2 ^ 31 ≤ x := by
  rw [BitVec.toInt_ofInt, ne_bmod_two_pow_32_iff]

/-- MUL ends with the two words of the exact product, and OV where the low word alone is not the product (R290). -/
theorem exec_mul (reg1 reg2 : Reg) (s : State) :
    exec (.mul reg1 reg2) s =
      writeHiLo reg2 (BitVec.ofInt 32 ((s.reg reg2).toInt * (s.reg reg1).toInt / 2 ^ 32))
        (BitVec.ofInt 32 ((s.reg reg2).toInt * (s.reg reg1).toInt))
        (decide ((s.reg reg2).toInt * (s.reg reg1).toInt ≠
          (BitVec.ofInt 32 ((s.reg reg2).toInt * (s.reg reg1).toInt)).toInt)) s.config.cycles.mul s := by
  rw [← extractLsb'_32_ofInt, ← extractLsb'_zero_ofInt]
  rfl

/-! ### The outcomes of a division (R291, R293, R295) -/

section
variable {reg1 reg2 : Reg} {s : State}

/-- DIV by zero is fatal (R295). -/
theorem exec_div_of_zero (h : s.reg reg1 = 0#32) : exec (.div reg1 reg2) s = fatalDivide (.div reg1 reg2) s := if_pos h

/-- The one signed quotient that does not fit a word is written as it wraps, with remainder 0 and OV (R291). -/
theorem exec_div_of_overflow (ha : s.reg reg2 = 0x80000000#32) (hb : s.reg reg1 = 0xFFFFFFFF#32) :
    exec (.div reg1 reg2) s = writeHiLo reg2 0#32 0x80000000#32 true s.config.cycles.div s := by
  have nonzero : s.reg reg1 ≠ 0#32 := by rw [hb]; decide
  exact (if_neg nonzero).trans (if_pos ⟨ha, hb⟩)

/-- Every other DIV writes the quotient rounded toward zero and what it leaves of the dividend (R291). -/
theorem exec_div_of_fits (h0 : s.reg reg1 ≠ 0#32) (h : ¬(s.reg reg2 = 0x80000000#32 ∧ s.reg reg1 = 0xFFFFFFFF#32)) :
    exec (.div reg1 reg2) s =
      writeHiLo reg2
        (BitVec.ofInt 32 ((s.reg reg2).toInt - (s.reg reg2).toInt.tdiv (s.reg reg1).toInt * (s.reg reg1).toInt))
        (BitVec.ofInt 32 ((s.reg reg2).toInt.tdiv (s.reg reg1).toInt)) false s.config.cycles.div s := by
  rw [Int.mul_comm (Int.tdiv _ _), ← Int.tmod_def]
  exact (if_neg h0).trans (if_neg h)

/-- DIVU by zero is fatal (R295). -/
theorem exec_divu_of_zero (h : s.reg reg1 = 0#32) : exec (.divu reg1 reg2) s = fatalDivide (.divu reg1 reg2) s := if_pos h

/-- Every other DIVU writes the quotient and what it leaves of the dividend (R293). -/
theorem exec_divu_of_ne_zero (h : s.reg reg1 ≠ 0#32) :
    exec (.divu reg1 reg2) s =
      writeHiLo reg2
        (BitVec.ofNat 32 ((s.reg reg2).toNat - (s.reg reg2).toNat / (s.reg reg1).toNat * (s.reg reg1).toNat))
        (BitVec.ofNat 32 ((s.reg reg2).toNat / (s.reg reg1).toNat)) false s.config.cycles.divu s := by
  rw [← Nat.mod_eq_sub_div_mul]
  exact if_neg h

/-- The fatal outcome of a division carries the instruction's half-word (60_exceptions.md R536). -/
theorem fatalDivide_of_encodes2 {i : Instr} {w0 : Half} (h : encodes2 i w0) :
    fatalDivide i s = .fault (.divideByZero s.pc w0) := by
  rw [fatalDivide, h.1]

end

/-! ### The statements -/

/-- Settles O42: the pair is the 64-bit product, and OV says that the low word alone is not the product. -/
theorem multiplySigned : Obligations.MultiplySigned := by
  intro reg1 reg2 s
  refine ⟨encodes2_of_formRegs 0x08#6 rfl rfl, writesPair_of_writeHiLo (exec_mul reg1 reg2 s) ?overflow⟩
  rw [decide_eq_true_iff, ne_toInt_ofInt_iff]

/-- Settles O44: the zero divisor, the overflow case and the rest are the three branches of DIV. -/
theorem divideSigned : Obligations.DivideSigned := by
  intro reg1 reg2 s
  have encoding : encodes2 (.div reg1 reg2) (wordRegs 0x2400#16 reg2 reg1) := encodes2_of_formRegs 0x09#6 rfl rfl
  refine ⟨encoding, fun hb => ?zero, fun ha hb => ?overflow, fun hb hfits => ?fits⟩
  case zero => rw [exec_div_of_zero hb, fatalDivide_of_encodes2 encoding]
  case overflow => exact writesPair_of_writeHiLo (exec_div_of_overflow ha hb) (iff_true_intro rfl)
  case fits => exact writesPair_of_writeHiLo (exec_div_of_fits hb hfits) Bool.false_eq_true.to_iff

/-- Settles O45: the zero divisor and the rest are the two branches of DIVU. -/
theorem divideUnsigned : Obligations.DivideUnsigned := by
  intro reg1 reg2 s
  have encoding : encodes2 (.divu reg1 reg2) (wordRegs 0x2C00#16 reg2 reg1) := encodes2_of_formRegs 0x0B#6 rfl rfl
  refine ⟨encoding, fun hb => ?zero, fun hb => ?nonzero⟩
  case zero => rw [exec_divu_of_zero hb, fatalDivide_of_encodes2 encoding]
  case nonzero => exact writesPair_of_writeHiLo (exec_divu_of_ne_zero hb) Bool.false_eq_true.to_iff

end Sys2Proof.Machine
end

section
/-! PROOFS. The statements on spec/44_jump_system.md: LDSR, STSR, CLI and SEI. -/

namespace Sys2Proof.Machine

open Sys2Proof

/-! ### The system register bank (10_state.md R50, R61) -/

/-- The bank as STSR sees it: each number with the word it reads. -/
def sysBank (s : State) : List (SysReg × Word) :=
  [(0#5, s.eipc), (1#5, s.eipsw), (2#5, s.fepc), (3#5, s.fepsw), (4#5, s.ecr), (5#5, s.psw), (6#5, s.config.pirValue),
    (7#5, s.config.tkcwValue), (24#5, s.chcw), (25#5, s.adtre)]

/-- The state after a write of the bank, said field by field: ECR, PIR and TKCW have none that changes. -/
def bankWritten (s : State) (id : SysReg) (v : Word) : State :=
  { s with
    eipc := if id = 0#5 then v else s.eipc
    eipsw := if id = 1#5 then v else s.eipsw
    fepc := if id = 2#5 then v else s.fepc
    fepsw := if id = 3#5 then v else s.fepsw
    psw := if id = 5#5 then v &&& pswMask s.config else s.psw
    chcw := if id = 24#5 then v &&& 0x00000002#32 else s.chcw
    adtre := if id = 25#5 then v else s.adtre }

/-- The bank holds exactly the spec's numbers. -/
theorem sysBank_numbers (s : State) : (sysBank s).map Prod.fst = sysNumbers := rfl

/-- A read answers what the bank holds under the number. -/
theorem sysRead_eq_some_iff {s : State} {id : SysReg} {v : Word} : sysRead s id = some v ↔ (id, v) ∈ sysBank s := by
  constructor
  · intro h
    unfold sysRead at h
    split at h <;> simp only [Option.some.injEq, reduceCtorEq] at h <;> subst h <;> simp [sysBank]
  · intro h
    simp only [sysBank, List.mem_cons, Prod.mk.injEq, List.not_mem_nil, or_false] at h
    obtain ⟨rfl, rfl⟩ | ⟨rfl, rfl⟩ | ⟨rfl, rfl⟩ | ⟨rfl, rfl⟩ | ⟨rfl, rfl⟩ | ⟨rfl, rfl⟩ | ⟨rfl, rfl⟩ | ⟨rfl, rfl⟩ |
      ⟨rfl, rfl⟩ | ⟨rfl, rfl⟩ := h <;> rfl

/-- A read of any other number answers nothing (R61). -/
theorem sysRead_eq_none {s : State} {id : SysReg} (h : id ∉ sysNumbers) : sysRead s id = none := by
  rw [Option.eq_none_iff_forall_ne_some]
  intro v hv
  rw [← sysBank_numbers s] at h
  exact h (List.mem_map_of_mem (sysRead_eq_some_iff.mp hv))

/-- A write goes to the register of the number, and is none outside the bank (R61). -/
theorem sysWrite_eq (s : State) (id : SysReg) (v : Word) :
    sysWrite s id v = if id ∈ sysNumbers then some (bankWritten s id v) else none := by
  unfold sysWrite
  split
  case h_11 => simp_all [sysNumbers]
  all_goals rfl

/-! ### The outcomes of LDSR and STSR (R317, R318) -/

section
variable {reg2 : Reg} {regID : SysReg} {s : State}

/-- LDSR of a number of the bank writes it and ends. -/
theorem exec_ldsr_of_mem (h : regID ∈ sysNumbers) :
    exec (.ldsr reg2 regID) s = .next ((bankWritten s regID (s.reg reg2)).retire 2#32 s.config.cycles.sysReg) := by
  simp only [exec, execLdsr, sysWrite_eq, if_pos h]

/-- LDSR of any other number is fatal. -/
theorem exec_ldsr_of_not_mem (h : regID ∉ sysNumbers) :
    exec (.ldsr reg2 regID) s = fatalSysReg (.ldsr reg2 regID) regID s := by
  simp only [exec, execLdsr, sysWrite_eq, if_neg h]

/-- STSR of a number of the bank writes the word read to the register and ends. -/
theorem exec_stsr_of_mem {v : Word} (h : (regID, v) ∈ sysBank s) :
    exec (.stsr regID reg2) s = .next ((s.setReg reg2 v).retire 2#32 s.config.cycles.sysReg) := by
  simp only [exec, execStsr, sysRead_eq_some_iff.mpr h]

/-- STSR of any other number is fatal, whatever the destination. -/
theorem exec_stsr_of_not_mem (h : regID ∉ sysNumbers) :
    exec (.stsr regID reg2) s = fatalSysReg (.stsr regID reg2) regID s := by
  simp only [exec, execStsr, sysRead_eq_none h]

/-- The fatal outcome of a number outside the bank carries the instruction's half-word (60_exceptions.md R536). -/
theorem fatalSysReg_of_encodes2 {i : Instr} {w0 : Half} (h : encodes2 i w0) :
    fatalSysReg i regID s = .fault (.sysRegIndex regID s.pc w0) := by
  rw [fatalSysReg, h.1]

end

/-! ### ID (R312, R313) -/

/-- An instruction of one half-word whose low ten bits are one field. -/
theorem encodes2_of_formLow10 {i : Instr} (op : BitVec 6) {u : BitVec 10} (h0 : word0 i = formLow10 op u)
    (h1 : word1 i = none) : encodes2 i ((op.setWidth 16 <<< 10) ||| u.setWidth 16) :=
  ⟨h0.trans (formLow10_eq op u), h1⟩

@[simp] theorem pswID_setInterruptDisable (p : Word) (b : Bool) : pswID (setInterruptDisable p b) = b :=
  getLsbD_setBit p 12 b 12

/-- Every bit but ID is kept. -/
theorem setInterruptDisable_keeps (p : Word) (b : Bool) :
    ∀ i, i ∉ [12] → (setInterruptDisable p b).getLsbD i = p.getLsbD i := by
  intro i hi
  rw [List.mem_singleton] at hi
  rw [setInterruptDisable, getLsbD_setBit, if_neg fun h => hi h.1]

/-- An instruction that gives ID the value `b` and ends changes ID alone. -/
theorem writesID_of_exec {i : Instr} {s : State} {b : Bool} {n : Nat}
    (h : exec i s = .next ((s.setPsw (setInterruptDisable s.psw b)).retire 2#32 n)) :
    ∃ t, exec i s = .next t ∧ pswID t.psw = b ∧ frame [] [12] [] s t ∧ retired 2#32 n s t :=
  ⟨_, h, pswID_setInterruptDisable s.psw b, frame_setPsw_retire s _ _ _ _ (setInterruptDisable_keeps s.psw b),
    retired_retire (State.setPsw_pc s _) _ _⟩

/-! ### The statements -/

/-- Settles O49: the state after the write is known field by field, and no other number has a register. -/
theorem ldsrWritesBank : Obligations.LdsrWritesBank := by
  intro reg2 regID s
  have encoding : encodes2 (.ldsr reg2 regID) (wordRegs 0x7000#16 reg2 regID) := encodes2_of_formRegs 0x1C#6 rfl rfl
  refine ⟨encoding, fun h => ?bank, fun h => ?outside⟩
  case bank =>
    have regs : regsKept [] s (bankWritten s regID (s.reg reg2)) := fun r _ => State.reg_congr rfl r
    exact ⟨_, exec_ldsr_of_mem h, rfl, rfl, rfl, rfl, rfl, rfl, rfl, rfl, regs, ⟨rfl, rfl, rfl, rfl, rfl⟩, ⟨rfl, rfl, rfl⟩,
      fun _ _ => rfl, retired_retire rfl _ _⟩
  case outside => rw [exec_ldsr_of_not_mem h, fatalSysReg_of_encodes2 encoding]

/-- Settles O50: the word the bank holds goes to the register, and no other number has a word. -/
theorem stsrReadsBank : Obligations.StsrReadsBank := by
  intro reg2 regID s
  have encoding : encodes2 (.stsr regID reg2) (wordRegs 0x7400#16 reg2 regID) := encodes2_of_formRegs 0x1D#6 rfl rfl
  refine ⟨encoding, fun v h => ?bank, fun h => ?outside⟩
  case bank =>
    exact ⟨_, exec_stsr_of_mem h, wrote_setReg_retire s reg2 v _ _, frame_setReg_retire s reg2 v _ _,
      retired_retire (State.setReg_pc s reg2 v) _ _⟩
  case outside => rw [exec_stsr_of_not_mem h, fatalSysReg_of_encodes2 encoding]

/-- Settles O48: both instructions write the one bit ID. -/
theorem interruptDisableInstructions : Obligations.InterruptDisableInstructions := by
  intro u s
  exact ⟨⟨encodes2_of_formLow10 0x16#6 rfl rfl, writesID_of_exec rfl⟩,
    ⟨encodes2_of_formLow10 0x1E#6 rfl rfl, writesID_of_exec rfl⟩⟩

end Sys2Proof.Machine
end

section
/-! PROOFS. The statements on spec/30_encoding.md sections 1 to 5: every pair of half-words decodes, and encodes back to itself
(R142, R155, R159); words of the tables. -/

namespace Sys2Proof.Machine

open Sys2Proof

/-! ### A word split into an instruction -/

/-- `i` holds every bit of the half-words it was read from: `w0`, and `w1` where `i` has a second one. -/
def SplitOf (w0 w1 : Half) (i : Instr) : Prop :=
  i.wellFormed = true ∧ word0 i = w0 ∧ ∀ w, word1 i = some w → w = w1

/-- Then its second half-word is there exactly where the length read from `w0` is 4 (R142). -/
theorem SplitOf.word1_eq {w0 w1 : Half} {i : Instr} (h : SplitOf w0 w1 i) :
    word1 i = if instrLength w0 = 4 then some w1 else none := by
  obtain ⟨-, rfl, hw1⟩ := h
  cases hw : word1 i with
  | none => rw [instrLength_word0_of_none hw, if_neg (by decide)]
  | some w => rw [instrLength_word0_of_some hw, if_pos rfl, hw1 w hw]

section
variable {w0 w1 : Half} {k : BitVec 6} {i : Instr}

/-- An instruction made of the opcode, reg2 and reg1. -/
theorem splitOf_formRegs (hk : opcodeOf w0 = k) (hwf : i.wellFormed = true)
    (h0 : word0 i = formRegs k (reg2Of w0) (reg1Of w0)) (h1 : ∀ w, word1 i = some w → w = w1) : SplitOf w0 w1 i :=
  ⟨hwf, h0.trans (formRegs_fields hk), h1⟩

/-- An instruction whose first half-word is the opcode and ten bits. -/
theorem splitOf_formLow10 (hk : opcodeOf w0 = k) (hwf : i.wellFormed = true) (h0 : word0 i = formLow10 k (low10Of w0))
    (h1 : ∀ w, word1 i = some w → w = w1) : SplitOf w0 w1 i :=
  ⟨hwf, h0.trans (formLow10_fields hk), h1⟩

end

/-! ### The fields that are not whole registers -/

/-- The ignored bit of SETF and its condition are the field reg1 (R145, R157). -/
theorem append_setf_fields (w0 : Half) : w0.extractLsb' 4 1 ++ w0.extractLsb' 0 4 = reg1Of w0 :=
  BitVec.extractLsb'_append_extractLsb'_eq_extractLsb' rfl

/-- The two parts of a displacement of 26 bits (R147). -/
theorem extractLsb'_16_disp26Of (w0 w1 : Half) : (disp26Of w0 w1).extractLsb' 16 10 = low10Of w0 :=
  BitVec.extractLsb'_append_eq_left

theorem extractLsb'_0_disp26Of (w0 w1 : Half) : (disp26Of w0 w1).extractLsb' 0 16 = w1 :=
  BitVec.extractLsb'_append_eq_right

/-- The top three bits of a half-word are those of its opcode. -/
theorem extractLsb'_13_of_opcodeOf {w0 : Half} {k : BitVec 6} (h : opcodeOf w0 = k) :
    w0.extractLsb' 13 3 = k.extractLsb' 3 3 := by
  subst h
  apply BitVec.eq_of_getLsbD_eq; intro i hi
  rw [opcodeOf, BitVec.getLsbD_extractLsb', BitVec.getLsbD_extractLsb', BitVec.getLsbD_extractLsb',
    decide_eq_true (show 3 + i < 6 by omega), Bool.true_and, ← Nat.add_assoc]

/-! ### The decoder, opcode by opcode -/

/-- The sixteen conditions (R146). -/
theorem splitOf_decodeBranch {w0 w1 : Half} {k : BitVec 6} (hk : opcodeOf w0 = k) (h3 : k.extractLsb' 3 3 = 0b100#3) :
    SplitOf w0 w1 (decodeBranch (condOf w0) (disp9Of w0)) := by
  have form {c : BitVec 4} (hc : condOf w0 = c) : formBranch c (disp9Of w0) = w0 :=
    formBranch_fields hc ((extractLsb'_13_of_opcodeOf hk).trans h3)
  generalize hc : condOf w0 = c
  obtain ⟨⟨c, hlt⟩⟩ := c
  interval_cases c <;> exact ⟨rfl, form hc, nofun⟩

/-- The sub-opcodes of Format VII, each with its own row or in the range of an ILLEGAL row (R150, R163). -/
theorem splitOf_decodeSub {w0 w1 : Half} (hk : opcodeOf w0 = 0x3E#6) :
    SplitOf w0 w1 (decodeSub (reg1Of w0) (reg2Of w0) (subOf w1) (low10Of w1)) := by
  have form {c : BitVec 6} (hc : subOf w1 = c) : formLow10 c (low10Of w1) = w1 := formLow10_fields hc
  generalize hc : subOf w1 = c
  unfold decodeSub
  split
  case h_15 =>
    have h0D : 0x0E ≤ c.toNat := by simp only [imp_false] at *; bv_omega
    have h40 := c.isLt
    split
    next h10 =>
      exact splitOf_formRegs hk (decide_eq_true (by omega)) rfl fun w hw => (Option.some.inj hw).symm.trans (form hc)
    next h10 =>
      split
      next h20 =>
        exact splitOf_formRegs hk (decide_eq_true (by omega)) rfl fun w hw => (Option.some.inj hw).symm.trans (form hc)
      next h20 =>
        exact splitOf_formRegs hk (decide_eq_true (by omega)) rfl fun w hw => (Option.some.inj hw).symm.trans (form hc)
  all_goals exact splitOf_formRegs hk rfl rfl fun w hw => (Option.some.inj hw).symm.trans (form hc)

/-- Every pair of half-words, by the opcode (R154). -/
theorem splitOf_decode (w0 w1 : Half) : SplitOf w0 w1 (decode w0 w1) := by
  unfold decode
  split
  case h_19 hk => exact splitOf_formRegs hk rfl (by rw [← append_setf_fields]; rfl) nofun
  case h_23 hk | h_26 hk | h_27 hk | h_28 hk | h_31 hk | h_32 hk | h_51 hk | h_55 hk =>
    exact splitOf_formLow10 hk rfl rfl nofun
  case h_33 hk | h_34 hk | h_35 hk | h_36 hk | h_37 hk | h_38 hk | h_39 hk | h_40 hk =>
    exact splitOf_decodeBranch hk (by decide)
  case h_43 hk | h_44 hk =>
    exact splitOf_formLow10 hk rfl (by rw [← extractLsb'_16_disp26Of w0 w1]; rfl)
      fun w hw => (Option.some.inj hw).symm.trans (extractLsb'_0_disp26Of w0 w1)
  case h_63 hk => exact splitOf_decodeSub hk
  case h_64 =>
    have hk : opcodeOf w0 = 0x3F#6 := by simp only [imp_false] at *; bv_omega
    exact splitOf_formRegs hk rfl rfl fun w hw => (Option.some.inj hw).symm
  all_goals
    next hk => exact splitOf_formRegs hk rfl rfl (by rintro w ⟨⟩ <;> rfl)

/-! ### The statements -/

/-- Settles O1: the decoder is run on the twelve words. -/
theorem specWordsDecode : Obligations.SpecWordsDecode := by
  unfold Obligations.SpecWordsDecode
  decide

/-- Settles O3: the decoder drops no bit of the two half-words, and the first one says whether the second one is read. -/
theorem encodeAfterDecode : Obligations.EncodeAfterDecode := by
  intro w0 w1
  obtain ⟨hwf, h0, -⟩ := splitOf_decode w0 w1
  exact ⟨hwf, h0, (splitOf_decode w0 w1).word1_eq⟩

end Sys2Proof.Machine
end

section
/-! PROOFS. The statements on spec/60_exceptions.md sections 2, 3 and 5: the set of pending requests, the choice of one, the test
it has to pass, the preemption by Reset, and the requests instructions raise. -/

namespace Sys2Proof.Machine

open Sys2Proof

/-! ### The set of pending requests (R511; log 14) -/

/-- Adding a request keeps the order, so no request stands twice. -/
theorem pendingWf_addPending (t : IntType) {p : List IntType} (h : pendingWf p) : pendingWf (addPending t p) := by
  induction p with
  | nil => exact List.pairwise_singleton _ t
  | cons u us ih =>
    obtain ⟨hu, hus⟩ := List.pairwise_cons.mp h
    rw [addPending]
    split
    next hlt =>
      exact List.pairwise_cons.mpr ⟨List.forall_mem_cons.mpr ⟨hlt, fun v hv => hlt.trans (hu v hv)⟩, h⟩
    next hle =>
      split
      next => exact h
      next hne =>
        have hlt : IntType.rank u < IntType.rank t :=
          lt_of_le_of_ne (Nat.not_lt.mp hle) fun he => hne (rank_inj he.symm)
        refine List.pairwise_cons.mpr ⟨fun v hv => ?_, ih hus⟩
        rcases (mem_addPending t v us).mp hv with rfl | hv
        · exact hlt
        · exact hu v hv

/-- A request already there is not added again. -/
theorem addPending_of_mem {t : IntType} {p : List IntType} (h : pendingWf p) (ht : t ∈ p) : addPending t p = p := by
  induction p with
  | nil => cases ht
  | cons u us ih =>
    obtain ⟨hu, hus⟩ := List.pairwise_cons.mp h
    rw [addPending]
    rcases List.mem_cons.mp ht with rfl | ht
    · rw [if_neg (lt_irrefl _), if_pos rfl]
    · have hlt : IntType.rank u < IntType.rank t := hu t ht
      rw [if_neg hlt.not_gt, if_neg fun he => hlt.ne (by rw [he]), ih hus ht]

/-! ### The choice (R512) -/

/-- None is chosen exactly where none is pending. -/
theorem choose_eq_none_iff {c : Config} {p : List IntType} : choose c p = none ↔ p = [] := by
  cases p with
  | nil => simp [choose]
  | cons t rest =>
    simp only [choose, reduceCtorEq, iff_false]
    split
    · exact nofun
    · split <;> exact nofun

/-- The one chosen is pending, and none pending has a smaller priority value. -/
theorem choose_least {c : Config} {p : List IntType} {t : IntType} (h : choose c p = some t) :
    t ∈ p ∧ ∀ u ∈ p, (descriptorOf c t).priority ≤ (descriptorOf c u).priority := by
  induction p generalizing t with
  | nil => cases h
  | cons a rest ih =>
    rw [choose] at h
    split at h
    next hnone =>
      obtain rfl := Option.some.inj h
      obtain rfl := choose_eq_none_iff.mp hnone
      exact ⟨List.mem_singleton_self a, fun u hu => by rw [List.mem_singleton.mp hu]⟩
    next b hb =>
      obtain ⟨hmem, hleast⟩ := ih hb
      split at h
      next hlt =>
        obtain rfl := Option.some.inj h
        exact ⟨List.mem_cons_of_mem a hmem, List.forall_mem_cons.mpr ⟨hlt.le, hleast⟩⟩
      next hle =>
        obtain rfl := Option.some.inj h
        exact ⟨List.mem_cons_self, List.forall_mem_cons.mpr ⟨le_rfl, fun u hu => (Nat.not_lt.mp hle).trans (hleast u hu)⟩⟩

/-! ### The acceptance test (R514) -/

/-- The field I as a number: `IL_WIDTH` bits from `IL_LSB` on (10_state.md R41). -/
theorem pswI_eq (c : Config) (p : Word) : pswI c p = p.toNat / 2 ^ c.ilLsb % 2 ^ c.ilWidth := by
  have hlt : p.toNat / 2 ^ c.ilLsb % 2 ^ c.ilWidth < 2 ^ 32 :=
    (Nat.mod_le _ _).trans_lt ((Nat.div_le_self _ _).trans_lt p.isLt)
  rw [pswI, extractUnsigned, BitVec.toNat_setWidth, BitVec.extractLsb'_toNat, Nat.shiftRight_eq_div_pow,
    Nat.mod_eq_of_lt hlt]

/-! ### The preemption by Reset (R513) -/

/-- The constraints of 00_scope.md R9, taken apart. -/
theorem configWf_parts {c : Config} (h : configWf c = true) :
    levelFieldWf c = true ∧ c.pswReset &&& ~~~pswMask c = 0#32 ∧ regionsWf c.regions = true ∧
      (∀ g ∈ c.regions, backingWf g = true) ∧ (descriptorOf c .reset).priority = 0 ∧
      prioritiesDistinct c prioritizedTypes = true ∧ trapsShare c = true := by
  simp only [configWf, Bool.and_eq_true, decide_eq_true_eq, List.all_eq_true] at h
  obtain ⟨⟨⟨⟨⟨⟨⟨⟨hlevel, hpsw⟩, hregions⟩, hbacking⟩, hreset⟩, hdistinct⟩, htraps⟩, -⟩, -⟩ := h
  exact ⟨hlevel, hpsw, hregions, hbacking, hreset, hdistinct, htraps⟩

/-- Every Trap row has the priority of the first one. -/
theorem trap_priority {c : Config} (h : trapsShare c = true) (v : BitVec 5) :
    (descriptorOf c (.trap v)).priority = (descriptorOf c (.trap 0#5)).priority := by
  simp only [trapsShare, List.all_eq_true, List.mem_range, decide_eq_true_eq] at h
  simpa using h v.toNat v.isLt

/-- Every maskable line has a row of its own. -/
theorem int_mem_prioritizedTypes : ∀ n : BitVec 4, IntType.int n ∈ prioritizedTypes.tail := by decide

/-- Reset alone has the priority value 0. -/
theorem priority_eq_zero_iff {c : Config} (h : configWf c = true) (t : IntType) :
    (descriptorOf c t).priority = 0 ↔ t = .reset := by
  obtain ⟨-, -, -, -, hreset, hdistinct, htraps⟩ := configWf_parts h
  constructor
  · intro h0
    have other : ∀ u ∈ prioritizedTypes.tail, (descriptorOf c u).priority ≠ 0 := by
      have hrow : prioritizedTypes = .reset :: prioritizedTypes.tail := rfl
      rw [hrow, prioritiesDistinct, Bool.and_eq_true, List.all_eq_true] at hdistinct
      intro u hu he
      exact of_decide_eq_true (hdistinct.1 u hu) (hreset.trans he.symm)
    cases t with
    | reset => rfl
    | nmi => exact absurd h0 (other _ (by decide))
    | illegalOpcode => exact absurd h0 (other _ (by decide))
    | trap v => exact absurd ((trap_priority htraps v).symm.trans h0) (other _ (by decide))
    | int n => exact absurd h0 (other _ (int_mem_prioritizedTypes n))
  · rintro rfl
    exact hreset

/-- A pending Reset is the request chosen. -/
theorem choose_of_reset_mem {c : Config} (h : configWf c = true) {p : List IntType} (hp : .reset ∈ p) :
    choose c p = some .reset := by
  cases ht : choose c p with
  | none => simp [choose_eq_none_iff.mp ht] at hp
  | some t =>
    obtain ⟨-, hleast⟩ := choose_least ht
    have hle := hleast .reset hp
    rw [(priority_eq_zero_iff h .reset).mpr rfl] at hle
    rw [(priority_eq_zero_iff h t).mp (Nat.le_zero.mp hle)]

/-! ### The requests an instruction raises (R520) -/

/-- Where `ADMIT_GK_INSTR` is false an instruction it governs is illegal (30_encoding.md R155). -/
theorem admitted_of_false {s : State} (h : s.config.admitGkInstr = false) (m : Result) : admitted s m = raiseIllegal s := by
  rw [admitted, h]
  rfl

/-- Where it is true the instruction has its meaning. -/
theorem admitted_of_true {s : State} (h : s.config.admitGkInstr = true) (m : Result) : admitted s m = m := by
  rw [admitted, h]
  rfl

/-- A Format VII instruction, by its registers, its sub-opcode and its ignored bits (30_encoding.md R150). -/
theorem encodes4_of_formVII {i : Instr} {r1 r2 : Reg} (code : BitVec 6) {u : BitVec 10}
    (h0 : word0 i = formRegs 0x3E#6 r2 r1) (h1 : word1 i = some (formLow10 code u)) :
    encodes4 i (wordRegs 0xF800#16 r2 r1) ((code.setWidth 16 <<< 10) ||| u.setWidth 16) :=
  ⟨h0.trans (formRegs_eq 0x3E#6 r2 r1), h1.trans (congrArg some (formLow10_eq code u))⟩

/-- Where `ADMIT_GK_INSTR` is false no second half-word is fetched after the opcodes of ADDI and CAXI (R141, R155). -/
theorem fetchesSecond_unadmitted {c : Config} (h : c.admitGkInstr = false) {w0 : Half}
    (hw : opcodeOf w0 = 0x29#6 ∨ opcodeOf w0 = 0x3A#6) : fetchesSecond c w0 = false := by
  rw [fetchesSecond, h]
  rcases hw with hw | hw <;> simp [hw]

/-! ### The statements -/

/-- Settles O9: the order is strict, so the list is a set, and the place of a request in it is fixed. -/
theorem pendingIsASet : Obligations.PendingIsASet := by
  intro t p h
  exact ⟨pendingWf_addPending t h, fun u => mem_addPending t u p, addPending_of_mem h⟩

/-- Settles O10: by induction on the list, the choice among the rest is compared with the head. -/
theorem chosenRequestHasLeastPriority : Obligations.ChosenRequestHasLeastPriority := by
  intro c p
  exact ⟨fun hne => Option.ne_none_iff_exists'.mp fun h => hne (choose_eq_none_iff.mp h), fun t ht => choose_least ht⟩

/-- Settles O11: the test reads ID and the field I as numbers. -/
theorem acceptanceTest : Obligations.AcceptanceTest := by
  intro c p d
  simp only [accepts, pswID, pswI_eq, Bool.or_eq_true, Bool.and_eq_true, Bool.not_eq_true', Option.any_eq_true,
    decide_eq_true_eq]

/-- Settles O14: Reset has the least priority value of all, so it is the request chosen. -/
theorem resetRequestPreempts : Obligations.ResetRequestPreempts := by
  intro offered s hwf hfatal hreset
  have pending : IntType.reset ∈ (mergeOffered offered s).pending :=
    (mem_mergeOffered .reset offered s).mpr (hreset.symm.imp_right fun h => ⟨.reset, h, rfl⟩)
  have chosen : choose s.config (mergeOffered offered s).pending = some .reset := choose_of_reset_mem hwf pending
  have served : service (mergeOffered offered s) = .finished (s.resetFrom.setCycles s.config.cycles.entry) := by
    rw [service, show (mergeOffered offered s).config = s.config from rfl, chosen]
    rfl
  rw [tick, hfatal, served]

/-- Settles O7: the eight rows share one meaning. -/
theorem illegalRowsRaiseRequest : Obligations.IllegalRowsRaiseRequest := by
  intro s r1 r2 code u
  exact ⟨⟨encodes2_of_formLow10 0x1B#6 rfl rfl, rfl⟩, ⟨encodes2_of_formLow10 0x32#6 rfl rfl, rfl⟩,
    ⟨encodes2_of_formLow10 0x36#6 rfl rfl, rfl⟩, ⟨encodes4_of_formVII 0x01#6 rfl rfl, rfl⟩,
    ⟨encodes4_of_formVII 0x0D#6 rfl rfl, rfl⟩, ⟨encodes4_of_formVII code rfl rfl, rfl⟩,
    ⟨encodes4_of_formVII code rfl rfl, rfl⟩, ⟨encodes4_of_formVII code rfl rfl, rfl⟩⟩

/-- Settles O8: the five instructions have their meaning under the parameter alone. -/
theorem unadmittedInstructionIsIllegal : Obligations.UnadmittedInstructionIsIllegal := by
  intro s h
  have illegal {i : Instr} {m : Result} (hm : exec i s = admitted s m) : raisesIllegal i s :=
    hm.trans (admitted_of_false h m)
  exact ⟨fun _ _ _ => illegal rfl, fun _ _ => illegal rfl, fun _ => illegal rfl,
    fun _ _ _ => ⟨illegal rfl, fetchesSecond_unadmitted h (.inl (opcodeOf_formRegs _ _ _))⟩,
    fun _ _ _ => ⟨illegal rfl, fetchesSecond_unadmitted h (.inr (opcodeOf_formRegs _ _ _))⟩⟩

end Sys2Proof.Machine
end

section
/-! PROOFS. The statements on spec/60_exceptions.md sections 2, 4, 6 and 7: step 1 of the tick, the entry, the return from it, the
halted engine and the fatal latch; and on the reset of 70_reset_and_hazards.md. -/

namespace Sys2Proof.Machine

open Sys2Proof

/-! ### The PSW of an entry (R521) -/

/-- The field I, bit by bit (10_state.md R41). -/
theorem testBit_pswI (c : Config) (p : Word) (i : Nat) :
    (pswI c p).testBit i = (decide (i < c.ilWidth) && p.getLsbD (c.ilLsb + i)) := by
  rw [pswI_eq, Nat.testBit_mod_two_pow, Nat.testBit_div_two_pow, Nat.add_comm, BitVec.getLsbD]

/-- The field I of two words that agree on its bits. -/
theorem pswI_congr {c : Config} {p q : Word}
    (h : ∀ i, c.ilLsb ≤ i → i < c.ilLsb + c.ilWidth → p.getLsbD i = q.getLsbD i) : pswI c p = pswI c q := by
  apply Nat.eq_of_testBit_eq
  intro i
  rw [testBit_pswI, testBit_pswI]
  by_cases hi : i < c.ilWidth
  · rw [h (c.ilLsb + i) (by omega) (by omega)]
  · simp [hi]

section
variable {c : Config} (h : levelFieldWf c = true) (p : Word) (d : Descriptor)
include h

/-- No bit of the level field is a bit of another field (00_scope.md R9). -/
theorem not_in_levelField {i : Nat} (hi : (0x0000F3EF#32).getLsbD i = true) :
    ¬(c.ilLsb ≤ i ∧ i < c.ilLsb + c.ilWidth) := by
  obtain ⟨-, -, apart⟩ := levelFieldWf_iff h
  intro ⟨hlo, hhi⟩
  rw [apart i hlo hhi] at hi
  cases hi

/-- An entry sets ID. -/
theorem pswID_entryPsw : pswID (entryPsw c p d) = true := getLsbD_entryPsw h p d 12

/-- An entry of a maskable type sets EP; another keeps it. -/
theorem pswEP_entryPsw : pswEP (entryPsw c p d) = (d.maskable || pswEP p) := by
  have outside := not_in_levelField h (i := 14) (by decide)
  rw [pswEP, getLsbD_entryPsw h, if_neg (by decide), if_neg fun ⟨hlo, hhi, _⟩ => outside ⟨hlo, hhi⟩]
  cases d.maskable <;> rfl

/-- An entry of a type that is not maskable sets NP; another keeps it. -/
theorem pswNP_entryPsw : pswNP (entryPsw c p d) = (!d.maskable || pswNP p) := by
  have outside := not_in_levelField h (i := 15) (by decide)
  rw [pswNP, getLsbD_entryPsw h, if_neg (by decide), if_neg fun ⟨hlo, hhi, _⟩ => outside ⟨hlo, hhi⟩]
  cases d.maskable <;> rfl

/-- A level goes into the field I, reduced to its bits. -/
theorem pswI_entryPsw_of_level {l : Nat} (hl : d.level = some l) : pswI c (entryPsw c p d) = l % 2 ^ c.ilWidth := by
  obtain ⟨-, inside, -⟩ := levelFieldWf_iff h
  have outside := not_in_levelField h (i := 12) (by decide)
  apply Nat.eq_of_testBit_eq
  intro i
  rw [testBit_pswI, Nat.testBit_mod_two_pow]
  by_cases hi : i < c.ilWidth
  · rw [getLsbD_entryPsw h, if_neg (by omega), if_pos ⟨by omega, by omega, by rw [hl]; rfl⟩, hl, Option.getD_some,
      Nat.add_sub_cancel_left, BitVec.getLsbD_ofNat, decide_eq_true (show i < 32 by omega), Bool.true_and]
  · rw [decide_eq_false hi, Bool.false_and, Bool.false_and]

/-- Outside the level field, EP, NP and ID every bit is kept. -/
theorem getLsbD_entryPsw_of_not_mem {i : Nat} (hi : i ∉ [12, 14, 15])
    (hfield : d.level = none ∨ ¬(c.ilLsb ≤ i ∧ i < c.ilLsb + c.ilWidth)) :
    (entryPsw c p d).getLsbD i = p.getLsbD i := by
  simp only [List.mem_cons, List.not_mem_nil, or_false, not_or] at hi
  obtain ⟨h12, h14, h15⟩ := hi
  have hlevel : ¬(c.ilLsb ≤ i ∧ i < c.ilLsb + c.ilWidth ∧ d.level.isSome) := by
    rintro ⟨hlo, hhi, hsome⟩
    rcases hfield with hnone | hout
    · rw [hnone] at hsome; cases hsome
    · exact hout ⟨hlo, hhi⟩
  rw [getLsbD_entryPsw h, if_neg h12, if_neg hlevel, if_neg fun hh => h14 hh.1, if_neg fun hh => h15 hh.1]

/-- Without a level the field I is kept. -/
theorem pswI_entryPsw_of_no_level (hl : d.level = none) : pswI c (entryPsw c p d) = pswI c p := by
  refine pswI_congr fun i hlo hhi => getLsbD_entryPsw_of_not_mem h p d (fun hmem => ?_) (.inl hl)
  have fixed : ∀ j ∈ [12, 14, 15], (0x0000F3EF#32).getLsbD j = true := by decide
  exact not_in_levelField h (fixed i hmem) ⟨hlo, hhi⟩

end

/-! ### The entry (R521) -/

/-- What an entry saves, sets and keeps. -/
theorem entered_enter (d : Descriptor) (s : State) : Entered d s (enter d s) where
  maskable hm := by
    obtain ⟨heipc, heipsw, hfepc, hfepsw, hecr⟩ := enter_saves_maskable s hm
    obtain ⟨low, high⟩ := insertField_low d.exceptionCode s.ecr
    exact ⟨heipc, heipsw, hfepc, hfepsw, hecr ▸ low, hecr ▸ high⟩
  nonMaskable hm := by
    obtain ⟨hfepc, hfepsw, heipc, heipsw, hecr⟩ := enter_saves_nonMaskable s hm
    obtain ⟨high, low⟩ := insertField_high d.exceptionCode s.ecr
    exact ⟨hfepc, hfepsw, heipc, heipsw, hecr ▸ high, hecr ▸ low⟩
  psw h := by
    rw [enter_psw]
    exact ⟨pswEP_entryPsw h _ d, pswNP_entryPsw h _ d, pswID_entryPsw h _ d, fun l => pswI_entryPsw_of_level h _ d,
      pswI_entryPsw_of_no_level h _ d, fun i hi hout => getLsbD_entryPsw_of_not_mem h _ d hi (.inr hout)⟩
  pc := enter_pc d s
  halted := enter_halted d s
  kept := ⟨enter_regs d s, enter_chcw d s, enter_adtre d s, enter_mem d s⟩
  control := ⟨enter_config d s, enter_fatal d s, enter_offers d s⟩
  devices := ⟨enter_deviceAnswers d s, enter_deviceRequests d s, enter_freeIndex d s⟩

/-- Neither the requests pending before and after nor the cycle count are the entry's. -/
theorem Entered.withPending {d : Descriptor} {s t : State} {p : List IntType} (h : Entered d { s with pending := p } t)
    (q : List IntType) (n : Nat) : Entered d s { t with pending := q, cycles := n } :=
  ⟨h.maskable, h.nonMaskable, h.psw, h.pc, h.halted, h.kept, h.control, h.devices⟩

/-! ### Step 1 of the tick (R510) -/

/-- With nothing offered nothing is merged. -/
@[simp] theorem mergeOffered_nil (s : State) : mergeOffered [] s = s := rfl

@[simp] theorem mergeOffered_config (offered : List Line) (s : State) : (mergeOffered offered s).config = s.config := rfl

/-- Once the schedule has run out nothing is offered (log 10). -/
theorem step_of_no_offers {s : State} (h : s.offers = []) : step s = tick [] s := by rw [step, h]

/-- With nothing pending the tick goes on to step 2 as it is. -/
theorem service_of_no_request {s : State} (h : s.pending = []) : service s = .proceed s := by
  rw [service, h]
  simp only [choose, applyRetention_eq, h, ite_self]
  rw [← h]

section
variable {s : State} {t : IntType}

/-- An accepted request other than Reset is entered. -/
theorem service_of_accepted (ht : choose s.config s.pending = some t) (hr : t ≠ .reset)
    (ha : accepts s.config s.psw (descriptorOf s.config t) = true) :
    service s = .finished ((applyRetention (enter (descriptorOf s.config t) s)).setCycles s.config.cycles.entry) := by
  rw [service, ht]
  exact (if_neg hr).trans (if_pos ha)

/-- A request that is not accepted is left to the retention rule. -/
theorem service_of_refused (ht : choose s.config s.pending = some t) (hr : t ≠ .reset)
    (ha : accepts s.config s.psw (descriptorOf s.config t) = false) : service s = .proceed (applyRetention s) := by
  rw [service, ht]
  exact (if_neg hr).trans (if_neg (by rw [ha]; decide))

/-- Under `retain` every request is kept (R515). -/
theorem applyRetention_retain (h : s.config.retention = .retain) : applyRetention s = s := by rw [applyRetention, h]

/-- Under `drop` every request is lost (R515). -/
theorem applyRetention_drop (h : s.config.retention = .drop) : applyRetention s = { s with pending := [] } := by
  rw [applyRetention, h]

end

/-- A tick whose step 1 finishes it. -/
theorem tick_of_finished {offered : List Line} {s u : State} (hf : s.fatal = none)
    (h : service (mergeOffered offered s) = .finished u) : tick offered s = .next u := by
  rw [tick, hf, h]

/-- A tick that goes on to step 2. -/
theorem tick_of_proceed {offered : List Line} {s u : State} (hf : s.fatal = none)
    (h : service (mergeOffered offered s) = .proceed u) : tick offered s = runInstruction u := by
  rw [tick, hf, h]

/-- A tick with the fatal latch set answers the recorded outcome (R67). -/
theorem tick_of_fatal {s : State} {f : Fault} (h : s.fatal = some f) (offered : List Line) : tick offered s = .fault f := by
  rw [tick, h]

/-- So does a step. -/
theorem step_of_fatal {s : State} {f : Fault} (h : s.fatal = some f) : step s = .fault f := by
  rw [step_eq_tick]
  exact tick_of_fatal (s := { s with offers := s.offers.tail }) h _

/-- A step that faults leaves the latch set and the memory and the record of the devices as they were (log 11). -/
theorem stateAfter_of_fault {s : State} {f : Fault} (h : step s = .fault f) :
    stateAfter s = { s with fatal := some f, freeIndex := s.freeIndex + 4 } := by
  rw [stateAfter, h]

/-! ### Bits that stay -/

/-- An even address is kept by the drop of bit 0 (10_state.md R36). -/
theorem and_evenMask_of_even {v : Word} (h : v.getLsbD 0 = false) : v &&& 0xFFFFFFFE#32 = v := by
  apply BitVec.eq_of_getLsbD_eq
  intro i hi
  have mask : ∀ j < 32, (0xFFFFFFFE#32).getLsbD j = decide (j ≠ 0) := by decide
  rw [BitVec.getLsbD_and, mask i hi]
  by_cases h0 : i = 0
  · subst h0; rw [h]; rfl
  · rw [decide_eq_true h0, Bool.and_true]

/-- A PSW with no undefined bit is kept by a raw write (10_state.md R42). -/
theorem rawSetPsw_of_within {c : Config} {p : Word} (h : p &&& ~~~pswMask c = 0#32) : rawSetPsw c p = p := by
  rw [psw_within_mask_iff] at h
  apply BitVec.eq_of_getLsbD_eq
  intro i _
  rw [rawSetPsw, BitVec.getLsbD_and]
  cases hp : p.getLsbD i with
  | false => rfl
  | true => rw [h i hp]; rfl

/-! ### The statements -/

/-- Settles O13: the entry field by field, and the one request it removes. -/
theorem entrySavesAndVectors : Obligations.EntrySavesAndVectors := by
  intro d s
  refine ⟨entered_enter d s, fun u => ?_, enter_cycles d s⟩
  rw [enter_pending, mem_removePending]

/-- Settles O12: the two outcomes of the acceptance test, each under the two retention rules. -/
theorem tickServicesOneRequest : Obligations.TickServicesOneRequest := by
  intro offered s t hf ht hr
  refine ⟨fun ha => ?accepted, fun ha => ?refused⟩
  case accepted =>
    have answer := tick_of_finished hf (service_of_accepted ht hr ha)
    have entered := entered_enter (descriptorOf s.config t) (mergeOffered offered s)
    refine ⟨answer, _, answer, ?_, rfl, fun hk => ?_, fun hd => ?_⟩
    · rw [applyRetention_eq]
      exact entered.withPending _ _
    · rw [State.setCycles_pending, applyRetention_retain (by rw [enter_config]; exact hk), enter_pending,
        mergeOffered_config]
    · rw [State.setCycles_pending, applyRetention_drop (by rw [enter_config]; exact hd)]
  case refused =>
    have answer := tick_of_proceed hf (service_of_refused ht hr ha)
    refine ⟨fun hk => ?_, fun hd => ?_⟩
    · rw [answer, applyRetention_retain (s := mergeOffered offered s) hk]
    · rw [answer, applyRetention_drop (s := mergeOffered offered s) hd]
      rfl

/-- Settles O15: NP chooses the pair the entry saved into. -/
theorem entryThenRetiRestores : Obligations.EntryThenRetiRestores := by
  intro d s u hlevel heven hmask hnp
  have np : pswNP (enter d s).psw = !d.maskable := by
    rw [enter_psw, pswNP_entryPsw hlevel]
    cases hm : d.maskable with
    | false => rfl
    | true => rw [hnp hm]; rfl
  have saved : (if pswNP (enter d s).psw then (enter d s).fepc else (enter d s).eipc) = s.pc ∧
      (if pswNP (enter d s).psw then (enter d s).fepsw else (enter d s).eipsw) = s.psw := by
    rw [np]
    cases hm : d.maskable with
    | false =>
      obtain ⟨hpc, hpsw, -⟩ := enter_saves_nonMaskable s hm
      exact ⟨hpc, hpsw⟩
    | true =>
      obtain ⟨hpc, hpsw, -⟩ := enter_saves_maskable s hm
      exact ⟨hpc, hpsw⟩
  obtain ⟨hpc, hpsw⟩ := saved
  refine ⟨_, rfl, ?_⟩
  rw [returnFromException_eq, hpc, hpsw, enter_config]
  exact ⟨and_evenMask_of_even heven, rawSetPsw_of_within hmask, enter_regs d s, enter_mem d s⟩

/-- Settles O16: nothing is merged and nothing chosen, and step 2 idles. -/
theorem haltedEngineIdles : Obligations.HaltedEngineIdles := by
  intro s hh hf hp ho
  have idle : service (mergeOffered [] s) = .proceed s := by rw [mergeOffered_nil, service_of_no_request hp]
  rw [step_of_no_offers ho, tick_of_proceed hf idle]
  exact if_pos hh

/-- Settles O17: the latch is asked before anything else. -/
theorem fatalLatchIsFinal : Obligations.FatalLatchIsFinal := by
  intro s f
  refine ⟨fun hf => ⟨tick_of_fatal hf, ?_⟩, fun hs => ?_, rfl⟩
  · rw [stateAfter_of_fault (step_of_fatal hf)]
  · rw [stateAfter_of_fault hs]
    exact ⟨rfl, step_of_fatal rfl⟩

/-- Settles O18: the registers one by one, every other field as the reset writes it. -/
theorem resetEstablishesPattern : Obligations.ResetEstablishesPattern := by
  intro s
  refine ⟨fun r => ?_, rfl, rfl, rfl, rfl, rfl, rfl, rfl, rfl, rfl, rfl, rfl, rfl, rfl, rfl⟩
  by_cases hr : r = 0#5
  · rw [hr, State.reg_zero, if_pos rfl]
  · have hne : 0 ≠ r.toNat := fun he => hr (BitVec.eq_of_toNat_eq he.symm)
    rw [State.reg, if_neg hr, if_neg hr, State.resetFrom, Vector.getElem_set_ne _ _ hne, Vector.getElem_replicate]

end Sys2Proof.Machine
end

section
/-! PROOFS. The whole-machine statements: what every instruction keeps (spec/10_state.md sections 2 to 4, 47_loadstore.md), what
every step keeps of the parameters and the record, and the invariant. -/

namespace Sys2Proof.Machine

open Sys2Proof

/-! ### What an instruction keeps -/

/-- What an ordinary effect keeps: the system registers, and all of the control state. -/
theorem OrdinaryEffect.kept {i : Instr} {s t : State} (h : OrdinaryEffect i s t) :
    systemKept s t ∧ controlKept s t ∧ s.deviceRequests <+: t.deviceRequests := by
  obtain ⟨p, r, r', v, v', q, n, m, da, dr, f, rfl, -, -, -⟩ := h
  simp [systemKept, controlKept]

theorem ecr_of_systemKept {s t : State} (h : systemKept s t) : t.ecr = s.ecr := by
  obtain ⟨-, -, -, -, hecr, -, -⟩ := h
  exact hecr

/-- No instruction changes a parameter or the offers, or takes a request back from the record (00_scope.md R17; log 1, 9, 10). -/
theorem exec_keeps_configuration {i : Instr} {s t : State} (h : exec i s = .next t) :
    t.config = s.config ∧ t.offers = s.offers ∧ s.deviceRequests <+: t.deviceRequests := by
  rcases exec_effect h with ⟨n, rfl, -⟩ | ⟨v, u, n, -, -, rfl⟩ | ⟨u, n, -, -, rfl⟩ | ⟨r, id, u, n, -, hw, rfl⟩ | hord
  · exact ⟨rfl, rfl, List.prefix_rfl⟩
  · exact ⟨rfl, rfl, List.prefix_rfl⟩
  · exact ⟨rfl, rfl, List.prefix_rfl⟩
  · obtain ⟨hconfig, -, -, -, -, -, -, hoffers, hrequests, -, -⟩ := sysWrite_effect hw
    exact ⟨hconfig, hoffers, by rw [State.retire_deviceRequests, hrequests]⟩
  · obtain ⟨-, ⟨hconfig, -, -, -, hoffers⟩, hrequests⟩ := hord.kept
    exact ⟨hconfig, hoffers, hrequests⟩

/-- Memory changes by the writes of stores only, each into the cells of an access that may write (20_memory.md R100). -/
theorem exec_memory {i : Instr} {s t : State} (h : exec i s = .next t) :
    t.mem = s.mem ∨ Instr.stores i = true ∧ ∃ w a x start off backing,
      busTarget s.config .write w a = .ok (.storage start off backing) ∧
        t.mem = writeBytes s.mem start off backing x w.bytes := by
  rcases exec_effect h with ⟨n, rfl, -⟩ | ⟨v, u, n, -, -, rfl⟩ | ⟨u, n, -, -, rfl⟩ | ⟨r, id, u, n, -, hw, rfl⟩ | hord
  · exact .inl rfl
  · exact .inl rfl
  · exact .inl rfl
  · obtain ⟨-, -, -, -, -, -, hmem, -⟩ := sysWrite_effect hw
    exact .inl hmem
  · obtain ⟨p, r, r', v, v', q, n, m, da, dr, f, rfl, -, -, hmem⟩ := hord
    exact hmem

/-! ### What a step keeps -/

/-- No step changes a parameter, and each uses up one offer (log 1, 9, 10). -/
theorem step_keeps_configuration {s t : State} (h : step s = .next t) :
    t.config = s.config ∧ t.offers = s.offers.tail ∧ s.deviceRequests <+: t.deviceRequests := by
  obtain ⟨s0, rfl, rfl | ⟨ty, -, rfl⟩ | ⟨-, rfl⟩ | ⟨i, u, hfetch, hexec⟩⟩ := step_cases h
  · exact ⟨rfl, rfl, List.prefix_rfl⟩
  · rw [applyRetention_eq]
    refine ⟨enter_config _ _, enter_offers _ _, ?_⟩
    rw [State.setCycles_deviceRequests, enter_deviceRequests]
    exact List.prefix_rfl
  · rw [applyRetention_eq]
    exact ⟨rfl, rfl, List.prefix_rfl⟩
  · obtain ⟨da, f, r, rfl⟩ := fetch_effect hfetch
    obtain ⟨hconfig, hoffers, hrequests⟩ := exec_keeps_configuration hexec
    rw [applyRetention_eq] at hconfig hoffers hrequests
    exact ⟨hconfig, hoffers, (List.prefix_append _ r).trans hrequests⟩

/-! ### The parts of the invariant -/

/-- Bit 0 of a word that has lost it. -/
theorem getLsbD_zero_and_evenMask (v : Word) : (v &&& 0xFFFFFFFE#32).getLsbD 0 = false := by
  rw [BitVec.getLsbD_and]
  exact Bool.and_false _

/-- The slot behind register 0 is never written (10_state.md R31). -/
theorem State.setReg_regs_zero (s : State) (r : Reg) (v : Word) : (s.setReg r v).regs[0] = s.regs[0] := by
  by_cases hr : r = 0#5
  · rw [hr, State.setReg_zero]
  · have hne : r.toNat ≠ 0 := fun he => hr (BitVec.eq_of_toNat_eq he)
    simp only [State.setReg, if_neg hr, Vector.getElem_set_ne _ _ hne]

/-- A masked word has no bit outside its mask. -/
theorem and_mask_within (v mask : Word) : v &&& mask &&& ~~~mask = 0#32 := by
  rw [BitVec.and_assoc, BitVec.and_not_self]
  exact BitVec.and_zero

/-- A raw write sets no undefined bit (10_state.md R42). -/
theorem rawSetPsw_within (c : Config) (v : Word) : rawSetPsw c v &&& ~~~pswMask c = 0#32 := and_mask_within v (pswMask c)

/-- No instruction sets an undefined PSW bit. -/
theorem PswEffect.within {i : Instr} {s : State} {p : Word} (h : PswEffect i s p)
    (hs : s.psw &&& ~~~pswMask s.config = 0#32) : p &&& ~~~pswMask s.config = 0#32 := by
  rcases h.mask with hkept | ⟨v, rfl⟩
  · rw [psw_within_mask_iff] at hs ⊢
    intro b hb
    by_cases hflag : b ∈ [0, 1, 2, 3, 12]
    · have fixed : ∀ j ∈ [0, 1, 2, 3, 12], (0x0000F3EF#32).getLsbD j = true := by decide
      rw [getLsbD_pswMask, fixed b hflag, Bool.true_or]
    · exact hs b (hkept b hflag ▸ hb)
  · exact rawSetPsw_within s.config v

/-- No entry sets an undefined PSW bit. -/
theorem entryPsw_within {c : Config} (hc : levelFieldWf c = true) {p : Word} (d : Descriptor)
    (hp : p &&& ~~~pswMask c = 0#32) : entryPsw c p d &&& ~~~pswMask c = 0#32 := by
  obtain ⟨-, inside, -⟩ := levelFieldWf_iff hc
  rw [psw_within_mask_iff] at hp ⊢
  intro b hb
  by_cases hfixed : b ∈ [12, 14, 15]
  · have fixed : ∀ j ∈ [12, 14, 15], (0x0000F3EF#32).getLsbD j = true := by decide
    rw [getLsbD_pswMask, fixed b hfixed, Bool.true_or]
  · by_cases hlevel : c.ilLsb ≤ b ∧ b < c.ilLsb + c.ilWidth
    · rw [getLsbD_pswMask, decide_eq_true (by omega), Bool.or_true]
    · exact hp b (getLsbD_entryPsw_of_not_mem hc p d hfixed (.inr hlevel) ▸ hb)

/-- Merging keeps the requests a set (R511). -/
theorem pendingWf_mergeOffered (offered : List Line) {s : State} (h : pendingWf s.pending) :
    pendingWf (mergeOffered offered s).pending := by
  simp only [mergeOffered]
  generalize s.pending = p at h
  induction offered generalizing p with
  | nil => exact h
  | cons l rest ih => exact ih _ (pendingWf_addPending _ h)

/-! ### The invariant, operation by operation -/

section
variable {s : State}

/-- Reset meets the invariant under well-formed parameters and a canonical memory. -/
theorem inv_resetFrom (hc : configWf s.config = true) (hm : Memory.wf s.mem = true) : s.resetFrom.Inv where
  config := hc
  regZero := Vector.getElem_set_self _
  pcEven := show (0xFFFFFFF0#32).getLsbD 0 = false by decide
  psw := by
    obtain ⟨-, hpsw, -⟩ := configWf_parts hc
    exact hpsw
  chcw := and_mask_within 0#32 0x00000002#32
  pending := List.Pairwise.nil
  trapAdmitted := nofun
  haltAdmitted := nofun
  memory := hm

/-- The offers, the device schedule and record, the fatal latch and the cycle count are no part of the invariant. -/
theorem State.Inv.withEnvironment (h : s.Inv) (o : List (List Line)) (da : List DeviceAnswer) (dr : List DeviceRequest)
    (f n : Nat) :
    State.Inv { s with offers := o, deviceAnswers := da, deviceRequests := dr, freeIndex := f, cycles := n } :=
  ⟨h.config, h.regZero, h.pcEven, h.psw, h.chcw, h.pending, h.trapAdmitted, h.haltAdmitted, h.memory⟩

/-- A control transfer leaves `pc` even. -/
theorem State.Inv.setPc (h : s.Inv) (v : Word) : (s.setPc v).Inv :=
  { h with pcEven := getLsbD_zero_and_evenMask v }

theorem State.Inv.setCycles (h : s.Inv) (n : Nat) : (s.setCycles n).Inv :=
  h.withEnvironment s.offers s.deviceAnswers s.deviceRequests s.freeIndex n

theorem State.Inv.retire (h : s.Inv) (length : Word) (n : Nat) : (s.retire length n).Inv :=
  (h.setPc _).setCycles n

theorem State.Inv.setReg (h : s.Inv) (r : Reg) (v : Word) : (s.setReg r v).Inv where
  config := by rw [State.setReg_config]; exact h.config
  regZero := (State.setReg_regs_zero s r v).trans h.regZero
  pcEven := by rw [State.setReg_pc]; exact h.pcEven
  psw := by rw [State.setReg_psw, State.setReg_config]; exact h.psw
  chcw := by rw [State.setReg_chcw]; exact h.chcw
  pending := by rw [State.setReg_pending]; exact h.pending
  trapAdmitted := by rw [State.setReg_pending, State.setReg_config]; exact h.trapAdmitted
  haltAdmitted := by rw [State.setReg_halted, State.setReg_config]; exact h.haltAdmitted
  memory := by rw [State.setReg_mem]; exact h.memory

theorem State.Inv.setPsw (h : s.Inv) {p : Word} (hp : p &&& ~~~pswMask s.config = 0#32) : (s.setPsw p).Inv :=
  { h with psw := hp }

theorem State.Inv.withMem (h : s.Inv) {m : Memory} (hm : Memory.wf m = true) : State.Inv { s with mem := m } :=
  { h with memory := hm }

/-- A request keeps the invariant; a Trap request only where TRAP exists (60_exceptions.md R522). -/
theorem State.Inv.request (h : s.Inv) {t : IntType} (ht : ∀ v, t = .trap v → s.config.admitGkInstr = true) :
    (s.request t).Inv :=
  { h with
    pending := pendingWf_addPending t h.pending
    trapAdmitted := fun v hv => by
      rcases (mem_addPending t _ s.pending).mp hv with rfl | hv
      · exact ht v rfl
      · exact h.trapAdmitted v hv }

/-- So does the halt latch, set only where HALT exists (10_state.md R66). -/
theorem State.Inv.halt (h : s.Inv) (ha : s.config.admitGkInstr = true) : State.Inv { s with halted := true } :=
  { h with haltAdmitted := fun _ => ha }

/-- The retention rule keeps the invariant (R515). -/
theorem State.Inv.applyRetention (h : s.Inv) : (applyRetention s).Inv := by
  rw [applyRetention_eq]
  split
  · exact { h with pending := List.Pairwise.nil, trapAdmitted := nofun }
  · exact h

/-- No offered line is a Trap request, so merging keeps the invariant (R503, R511). -/
theorem State.Inv.mergeOffered (h : s.Inv) (offered : List Line) : (mergeOffered offered s).Inv :=
  { h with
    pending := pendingWf_mergeOffered offered h.pending
    trapAdmitted := fun v hv => by
      rcases (mem_mergeOffered _ offered s).mp hv with hv | ⟨l, -, hl⟩
      · exact h.trapAdmitted v hv
      · cases l <;> cases hl }

/-- An entry keeps the invariant (R521). -/
theorem State.Inv.enter (h : s.Inv) (d : Descriptor) : (enter d s).Inv where
  config := by rw [enter_config]; exact h.config
  regZero := by simp only [enter_regs, h.regZero]
  pcEven := by rw [enter_pc]; exact getLsbD_zero_and_evenMask _
  psw := by
    obtain ⟨hlevel, -⟩ := configWf_parts h.config
    rw [enter_psw, enter_config]
    exact entryPsw_within hlevel d h.psw
  chcw := by rw [enter_chcw]; exact h.chcw
  pending := by rw [enter_pending]; exact pendingWf_filter _ h.pending
  trapAdmitted v hv := by
    rw [enter_pending, mem_removePending] at hv
    rw [enter_config]
    exact h.trapAdmitted v hv.1
  haltAdmitted hh := by rw [enter_halted] at hh; cases hh
  memory := by rw [enter_mem]; exact h.memory

/-- A write of the system register bank keeps the invariant (10_state.md R50). -/
theorem State.Inv.sysWrite (h : s.Inv) {u : State} {id : SysReg} {v : Word} (hw : sysWrite s id v = some u) : u.Inv := by
  obtain ⟨hconfig, hregs, hpc, -, hpending, hhalted, hmem, -, -, hpsw, hchcw⟩ := sysWrite_effect hw
  refine ⟨hconfig ▸ h.config, by simp only [hregs, h.regZero], hpc ▸ h.pcEven, ?_, ?_, hpending ▸ h.pending,
    by rw [hpending, hconfig]; exact h.trapAdmitted, by rw [hhalted, hconfig]; exact h.haltAdmitted, hmem ▸ h.memory⟩
  · rw [hconfig]
    rcases hpsw with hpsw | ⟨-, hpsw⟩ <;> rw [hpsw]
    · exact h.psw
    · exact rawSetPsw_within s.config v
  · rcases hchcw with hchcw | hchcw <;> rw [hchcw]
    · exact h.chcw
    · exact and_mask_within v _

/-- An ordinary effect keeps the invariant: two registers, the PSW, `pc` and memory are written. -/
theorem State.Inv.ordinary (h : s.Inv) {i : Instr} {t : State} (ht : OrdinaryEffect i s t) : t.Inv := by
  obtain ⟨p, r, r', v, v', q, n, m, da, dr, f, rfl, hp, -, hm⟩ := ht
  have memory : Memory.wf m = true := by
    rcases hm with rfl | ⟨-, w, a, x, start, off, backing, -, rfl⟩
    · exact h.memory
    · exact writeBytes_wf _ _ _ _ _ _ h.memory
  have written : State.Inv (((s.setPsw p).setReg r v).setReg r' v') := ((h.setPsw (hp.within h.psw)).setReg r v).setReg r' v'
  exact ((written.setPc q).withMem memory).withEnvironment _ da (s.deviceRequests ++ dr) f n

/-- Every instruction keeps the invariant. -/
theorem State.Inv.exec (h : s.Inv) {i : Instr} {t : State} (ht : exec i s = .next t) : t.Inv := by
  rcases exec_effect ht with ⟨n, rfl, -⟩ | ⟨v, u, n, -, hadmit, rfl⟩ | ⟨u, n, -, hadmit, rfl⟩ |
    ⟨r, id, u, n, -, hw, rfl⟩ | hord
  · exact (h.request (t := .illegalOpcode) nofun).setCycles n
  · exact (h.request fun _ _ => hadmit).retire _ n
  · exact (h.halt hadmit).retire _ n
  · exact (h.sysWrite hw).retire _ n
  · exact h.ordinary hord

end

/-! ### The statements -/

/-- Settles O20: the reset rule, at the default parameters and an empty memory. -/
theorem resetMeetsInvariant : Obligations.ResetMeetsInvariant := inv_resetFrom (by decide) rfl

/-- Settles O21: the four ways a step ends, each made of operations that keep the invariant. -/
theorem stepKeepsInvariant : Obligations.StepKeepsInvariant := by
  intro s t h hstep
  have offer : State.Inv { s with offers := s.offers.tail } := h.withEnvironment _ _ _ _ _
  have merged := offer.mergeOffered (s.offers.headD [])
  obtain ⟨s0, rfl, rfl | ⟨ty, -, rfl⟩ | ⟨-, rfl⟩ | ⟨i, u, hfetch, hexec⟩⟩ := step_cases hstep
  · exact (inv_resetFrom merged.config merged.memory).setCycles _
  · exact (merged.enter _).applyRetention.setCycles _
  · exact merged.applyRetention.setCycles _
  · obtain ⟨da, f, r, rfl⟩ := fetch_effect hfetch
    exact (merged.applyRetention.withEnvironment _ da _ f _).exec hexec

/-- Settles O22: the four ways a step ends, of which only an instruction and its fetch can add to the record. -/
theorem stepKeepsConfiguration : Obligations.StepKeepsConfiguration := fun _ _ h => step_keeps_configuration h

/-- Settles O24: outside the flags a PSW bit changes by the four named instructions alone. -/
theorem controlBitsWrittenByFourOnly : Obligations.ControlBitsWrittenByFourOnly := by
  intro i s t h hc
  rcases exec_effect h with ⟨n, rfl, -⟩ | ⟨v, u, n, -, -, rfl⟩ | ⟨u, n, -, -, rfl⟩ | ⟨r, id, u, n, rfl, hw, rfl⟩ | hord
  · exact fun _ _ => rfl
  · exact fun _ _ => rfl
  · exact fun _ _ => rfl
  · obtain ⟨-, -, -, -, -, -, -, -, -, hpsw | ⟨rfl, -⟩, -⟩ := sysWrite_effect hw
    · intro b _
      rw [State.retire_psw, hpsw]
    · cases hc
  · obtain ⟨p, r, r', v, v', q, n, m, da, dr, f, rfl, hp, -, -⟩ := hord
    intro b hb
    simpa using hp.control hc b hb

/-- Settles O25: of all that an instruction can do only LDSR writes a system register, and never ECR. -/
theorem systemRegistersWrittenByLdsrOnly : Obligations.SystemRegistersWrittenByLdsrOnly := by
  intro i s t h
  have all (hk : systemKept s t) : t.ecr = s.ecr ∧ (Instr.isLdsr i = false → systemKept s t) :=
    ⟨ecr_of_systemKept hk, fun _ => hk⟩
  rcases exec_effect h with ⟨n, rfl, -⟩ | ⟨v, u, n, -, -, rfl⟩ | ⟨u, n, -, -, rfl⟩ | ⟨r, id, u, n, rfl, hw, rfl⟩ | hord
  · exact all ⟨rfl, rfl, rfl, rfl, rfl, rfl, rfl⟩
  · exact all ⟨rfl, rfl, rfl, rfl, rfl, rfl, rfl⟩
  · exact all ⟨rfl, rfl, rfl, rfl, rfl, rfl, rfl⟩
  · obtain ⟨-, -, -, hecr, -⟩ := sysWrite_effect hw
    exact ⟨hecr, nofun⟩
  · obtain ⟨hsystem, -, -⟩ := hord.kept
    exact all hsystem

/-- Settles O26: a changed memory is a store's. -/
theorem onlyStoresChangeMemory : Obligations.OnlyStoresChangeMemory := by
  intro i s t h hi
  rcases exec_memory h with hmem | ⟨hstores, -⟩
  · exact hmem
  · rw [hi] at hstores
    cases hstores

/-- Settles O27: what moves `pc` otherwise is a control transfer or an instruction that is not admitted. -/
theorem sequentialAdvance : Obligations.SequentialAdvance := by
  intro i s t h hi hadmit
  rcases exec_effect h with ⟨n, rfl, hjump | hfalse⟩ | ⟨v, u, n, rfl, -, rfl⟩ | ⟨u, n, rfl, -, rfl⟩ |
    ⟨r, id, u, n, rfl, hw, rfl⟩ | hord
  · rw [hi] at hjump; cases hjump
  · rw [hadmit] at hfalse; cases hfalse
  · rfl
  · rfl
  · obtain ⟨-, -, hpc, -⟩ := sysWrite_effect hw
    rw [State.retire_pc, hpc]
    rfl
  · obtain ⟨p, r, r', v, v', q, n, m, da, dr, f, rfl, -, hpc, -⟩ := hord
    rw [← hpc hi]

end Sys2Proof.Machine
end

section
/-! PROOFS. The statements on the fetch (spec/30_encoding.md R141, R155; 60_exceptions.md R510 step 2) and on the checks of the bus
(20_memory.md R92 to R104). -/

namespace Sys2Proof.Machine

open Sys2Proof

/-! ### The checks of a request (R100) -/

section
variable {c : Config} {addr : Word} {g : Region} {dir : Direction} {n : Width}

/-- The first check: the capability of the region found. -/
theorem busTarget_permission (hg : resolve c.regions (maskAddress addr) = some g) (hp : permits g.capability dir = false) :
    busTarget c dir n addr = .error .permission := by
  simp only [busTarget, hg, hp, Bool.false_eq_true, if_false]

/-- The second one: the end of the region. -/
theorem busTarget_pastEnd (hg : resolve c.regions (maskAddress addr) = some g) (hp : permits g.capability dir = true)
    (he : g.size < maskAddress addr - g.start + n.bytes) : busTarget c dir n addr = .error .unimplemented := by
  simp only [busTarget, hg, hp, if_true, he]

/-- Past both, the kind of the region answers. -/
theorem busTarget_inside (hg : resolve c.regions (maskAddress addr) = some g) (hp : permits g.capability dir = true)
    (he : maskAddress addr - g.start + n.bytes ≤ g.size) :
    (∀ backing, g.kind = .storage backing →
      busTarget c dir n addr = .ok (.storage g.start (maskAddress addr - g.start) backing)) ∧
    (∀ d, g.kind = .device d → busTarget c dir n addr = .ok (.device d (maskAddress addr - g.start))) ∧
    (g.kind = .unimplemented → busTarget c dir n addr = .error .unimplemented) := by
  have inside : ¬g.size < maskAddress addr - g.start + n.bytes := Nat.not_lt.mpr he
  refine ⟨fun backing hk => ?_, fun d hk => ?_, fun hk => ?_⟩ <;>
    simp only [busTarget, hg, hp, if_true, if_neg inside, hk]

end

section
variable {s : State} {n : Width} {addr : Word} {k : BusErrorKind}

/-- A read the checks refuse fails, whatever the region would answer. -/
theorem busRead_refused (h : busTarget s.config .read n addr = .error k) : busRead n addr s = .error k := by
  simp only [busRead, h]

/-- So does a write. -/
theorem busWrite_refused (h : busTarget s.config .write n addr = .error k) (v : Word) : busWrite n addr v s = .error k := by
  simp only [busWrite, h]

end

/-! ### Read-only regions (R104) -/

/-- The cells of a storage region lie inside it (R111). -/
theorem cellAddress_inside {g : Region} {backing : Nat} (hk : g.kind = .storage backing) (hb : backingWf g = true)
    (hsize : 0 < g.size) (off k : Nat) :
    g.start ≤ cellAddress g.start off backing k ∧ cellAddress g.start off backing k < g.start + g.size := by
  simp only [backingWf, hk, decide_eq_true_eq] at hb
  obtain ⟨hpos, hdvd⟩ := hb
  have hle : backing ≤ g.size := Nat.le_of_dvd hsize (Nat.dvd_of_mod_eq_zero hdvd)
  have hlt : (off + k) % backing < backing := Nat.mod_lt _ hpos
  rw [cellAddress]
  omega

theorem Width.bytes_pos (n : Width) : 0 < n.bytes := by cases n <;> decide

/-- A write goes to no cell of a read-only region: its cells lie in a region that may be written, and regions do not overlap. -/
theorem cellAddress_not_readOnly {c : Config} (hc : configWf c = true) {g : Region} (hg : g ∈ c.regions)
    (hro : g.capability = .readOnly) {n : Width} {addr : Word} {start off backing : Nat}
    (ht : busTarget c .write n addr = .ok (.storage start off backing)) (k : Nat) :
    ¬(g.start ≤ cellAddress start off backing k ∧ cellAddress start off backing k < g.start + g.size) := by
  obtain ⟨-, -, hregions, hbacking, -⟩ := configWf_parts hc
  obtain ⟨x, hx, hp, hk, rfl, -, hend⟩ := busTarget_storage ht
  obtain ⟨hmem, -⟩ := resolve_mem hx
  have hsize : 0 < x.size := by have := n.bytes_pos; omega
  obtain ⟨xlo, xhi⟩ := cellAddress_inside hk (hbacking x hmem) hsize off k
  rintro ⟨glo, ghi⟩
  obtain rfl := region_unique hregions g hg x hmem glo ghi xlo xhi
  rw [hro] at hp
  cases hp

/-- A step changes memory by one write into the cells of an access that may write, or not at all. -/
theorem step_memory {s t : State} (h : step s = .next t) :
    t.mem = s.mem ∨ ∃ w a x start off backing, busTarget s.config .write w a = .ok (.storage start off backing) ∧
      t.mem = writeBytes s.mem start off backing x w.bytes := by
  obtain ⟨s0, rfl, rfl | ⟨ty, -, rfl⟩ | ⟨-, rfl⟩ | ⟨i, u, hfetch, hexec⟩⟩ := step_cases h
  · exact .inl rfl
  · rw [applyRetention_eq]
    exact .inl (enter_mem _ _)
  · rw [applyRetention_eq]
    exact .inl rfl
  · obtain ⟨da, f, r, rfl⟩ := fetch_effect hfetch
    have effect := exec_memory hexec
    rw [applyRetention_eq] at effect
    exact effect.imp_right fun ⟨_, hwrite⟩ => hwrite

/-! ### Half-words of code in storage (R106) -/

/-- Code that lies in storage is what the fetch of a half-word reads. -/
theorem busRead_of_codeAt {s : State} {addr : Word} {w : Half} (h : codeAt s addr w) :
    busRead .half addr s = .ok (w.setWidth 32, s) := by
  obtain ⟨start, off, backing, ht, rfl⟩ := h
  rw [busRead_storage ht, readBytes_stored]
  rfl

/-- A half-word read, taken back to its sixteen bits. -/
theorem setWidth_setWidth_half (w : Half) : (w.setWidth 32).setWidth 16 = w := by
  rw [BitVec.setWidth_setWidth_of_le _ (by decide), BitVec.setWidth_eq]

section
variable {u : State}

/-- The fetch of an instruction that lies in storage decodes it and changes nothing. -/
theorem fetch_of_fetchedAt {i : Instr} (h : fetchedAt u i) : fetch u = .ok (i, u) := by
  obtain ⟨w0, w1, h0, h1, rfl⟩ := h
  simp only [fetch, busRead_of_codeAt h0, setWidth_setWidth_half]
  split
  next hs => simp only [busRead_of_codeAt (h1 hs), setWidth_setWidth_half]
  next hs => rfl

/-- The fetch of a first half-word that is refused. -/
theorem fetch_of_refused_first {k : BusErrorKind} (h : busTarget u.config .read .half u.pc = .error k) :
    fetch u = .error (.busError k u.pc u.pc none) := by
  simp only [fetch, busRead_refused h]

/-- The fetch of a second half-word that is refused. -/
theorem fetch_of_refused_second {k : BusErrorKind} {w0 : Half} (h0 : codeAt u u.pc w0)
    (hs : fetchesSecond u.config w0 = true) (h : busTarget u.config .read .half (u.pc + 2#32) = .error k) :
    fetch u = .error (.busError k (u.pc + 2#32) u.pc (some w0)) := by
  simp only [fetch, busRead_of_codeAt h0, setWidth_setWidth_half, hs, if_true, busRead_refused h]

end

/-! ### A step that reaches the fetch (60_exceptions.md R510) -/

section
variable {s u : State}

/-- Such a step is step 2 of the tick, at the state step 1 left. -/
theorem step_of_reachesFetch (h : reachesFetch s u) : step s = runInstruction u := by
  obtain ⟨hfatal, hproceed, -⟩ := h
  rw [step_eq_tick]
  exact tick_of_proceed (s := { s with offers := s.offers.tail }) hfatal hproceed

theorem step_of_fetch_ok (h : reachesFetch s u) {i : Instr} (hf : fetch u = .ok (i, u)) : step s = exec i u := by
  have ⟨_, _, hhalted⟩ := h
  simp only [step_of_reachesFetch h, runInstruction, hhalted, Bool.false_eq_true, if_false, hf]

theorem step_of_fetch_error (h : reachesFetch s u) {f : Fault} (hf : fetch u = .error f) : step s = .fault f := by
  have ⟨_, _, hhalted⟩ := h
  simp only [step_of_reachesFetch h, runInstruction, hhalted, Bool.false_eq_true, if_false, hf]

/-- With nothing fatal, halted, offered or pending a step reaches the fetch as it is. -/
theorem reachesFetch_self (hf : s.fatal = none) (hh : s.halted = false) (ho : s.offers = []) (hp : s.pending = []) :
    reachesFetch s s := by
  refine ⟨hf, ?_, hh⟩
  have same : { s with offers := s.offers.tail } = s := by
    cases s
    cases ho
    rfl
  rw [same, ho]
  exact service_of_no_request hp

end

/-! ### An instruction placed after reset (log 19) -/

/-- Bytes placed one after the other at the place of the first instruction go to consecutive cells of the cartridge. -/
theorem placeBytes_reset (a b c d : Byte) :
    placeBytes defaultConfig 0xFFFFFFF0#32 [a, b, c, d] [] =
      Memory.write (Memory.write (Memory.write (Memory.write [] 0x07FFFFF0 a) 0x07FFFFF1 b) 0x07FFFFF2 c) 0x07FFFFF3 d :=
  rfl

/-- Two bytes in consecutive cells of the cartridge are code there. -/
theorem codeAt_cartridge {s : State} {addr : Word} {off : Nat} (hc : s.config = defaultConfig)
    (ht : busTarget defaultConfig .read .half addr = .ok (.storage 0x07000000 off 0x01000000))
    (hoff : off + 1 < 0x01000000) :
    codeAt s addr (halfOfBytes (Memory.read s.mem (0x07000000 + off)) (Memory.read s.mem (0x07000000 + off + 1))) := by
  refine ⟨0x07000000, off, 0x01000000, hc ▸ ht, ?_⟩
  rw [cellAddress, cellAddress, Nat.mod_eq_of_lt (by omega), Nat.mod_eq_of_lt hoff]
  rfl

/-- The fetch after reset finds the four bytes placed, two for each half-word. -/
theorem codeAt_withFetchWord (nbits w : Nat) :
    codeAt (State.reset.withFetchWord nbits w) (State.reset.withFetchWord nbits w).pc
        (halfOfBytes (byteOf (w % 2 ^ nbits) 0) (byteOf (w % 2 ^ nbits) 1)) ∧
      codeAt (State.reset.withFetchWord nbits w) ((State.reset.withFetchWord nbits w).pc + 2#32)
        (halfOfBytes (byteOf (w % 2 ^ nbits) 2) (byteOf (w % 2 ^ nbits) 3)) := by
  have first := codeAt_cartridge (s := State.reset.withFetchWord nbits w) (addr := 0xFFFFFFF0#32) (off := 0xFFFFF0) rfl
    (by decide) (by decide)
  have second := codeAt_cartridge (s := State.reset.withFetchWord nbits w) (addr := 0xFFFFFFF2#32) (off := 0xFFFFF2) rfl
    (by decide) (by decide)
  have memory : (State.reset.withFetchWord nbits w).mem = _ :=
    placeBytes_reset (byteOf (w % 2 ^ nbits) 0) (byteOf (w % 2 ^ nbits) 1) (byteOf (w % 2 ^ nbits) 2)
      (byteOf (w % 2 ^ nbits) 3)
  rw [memory] at first second
  simp only [Memory.read_write] at first second
  exact ⟨first, second⟩

/-- Four bytes always hold an instruction: the first half-word tells whether the second one belongs to it. -/
theorem decodeBytes_four_bytes (b0 b1 b2 b3 : Byte) :
    decodeBytes [b0, b1, b2, b3] =
      .ok (decode (halfOfBytes b0 b1) (if instrLength (halfOfBytes b0 b1) = 2 then 0#16 else halfOfBytes b2 b3)) := by
  rw [decodeBytes]
  split <;> rfl

/-- An instruction is 2 or 4 bytes long (R142). -/
theorem instrLength_eq_two_or_four (w0 : Half) : instrLength w0 = 2 ∨ instrLength w0 = 4 := by
  unfold instrLength
  split
  · exact .inl rfl
  · split
    · exact .inl rfl
    · exact .inr rfl

/-- Where every instruction is admitted the second half-word is fetched exactly of those 4 bytes long. -/
theorem fetchesSecond_of_admitted {c : Config} (h : c.admitGkInstr = true) (w0 : Half) :
    fetchesSecond c w0 = decide (instrLength w0 = 4) := by
  rw [fetchesSecond, h, Bool.true_or, Bool.and_true]

/-! ### The statements -/

/-- Settles O54: the checks, one lemma each. -/
theorem busChecksInOrder : Obligations.BusChecksInOrder := fun _ _ _ _ _ hg =>
  ⟨busTarget_permission hg, busTarget_pastEnd hg, busTarget_inside hg⟩

/-- Settles O55: the three answers a device can give, for a read and for a write. -/
theorem deviceRequestsAreRecorded : Obligations.DeviceRequestsAreRecorded := by
  intro s n addr v d off
  refine ⟨fun ht => ⟨fun ha => ?freeRead, fun w rest ha => ?read, fun rest ha => ?refusedRead⟩,
    fun ht => ⟨fun ha => ?freeWrite, fun w rest ha => ?write, fun rest ha => ?refusedWrite⟩⟩
  case freeRead | freeWrite =>
    simp only [busRead, busWrite, ht, deviceRequest, ha]
    cases Config.deviceAnswer s.freeIndex <;> rfl
  all_goals simp only [busRead, busWrite, ht, deviceRequest, ha]

/-- Settles O23: a region that may be written does not overlap the read-only one, and every write passes the checks. -/
theorem readOnlyRegionNeverChanges : Obligations.ReadOnlyRegionNeverChanges := by
  intro s g hc hg hro
  refine ⟨fun n addr v hlo hhi => ?refused, fun t hstep a hlo hhi => ?kept,
    fun n addr v k => ⟨busRead_refused, fun h => busWrite_refused h v⟩, fun f hf => ?fault⟩
  case refused =>
    obtain ⟨-, -, hregions, -⟩ := configWf_parts hc
    have found := (resolve_eq_some_iff hregions).mpr ⟨hg, hlo, hhi⟩
    exact busWrite_refused (busTarget_permission found (by rw [hro]; rfl)) v
  case kept =>
    rcases step_memory hstep with hmem | ⟨w, b, x, start, off, backing, ht, hmem⟩ <;> rw [hmem]
    refine read_writeBytes_of_ne _ _ _ _ _ _ _ fun k _ he => cellAddress_not_readOnly hc hg hro ht k ?_
    exact he ▸ ⟨hlo, hhi⟩
  case fault =>
    rw [stateAfter_of_fault hf]
    exact ⟨rfl, rfl⟩

/-- Settles O4: the fetch of code in storage decodes it, and a step that reaches the fetch runs what it gives. -/
theorem stepRunsDecodedInstruction : Obligations.StepRunsDecodedInstruction :=
  ⟨fun _ _ _ hreach hfetched => step_of_fetch_ok hreach (fetch_of_fetchedAt hfetched),
    fun _ hf hh ho hp => reachesFetch_self hf hh ho hp⟩

/-- Settles O6: the refused fetch is the step's answer. -/
theorem fetchErrorsAreFatal : Obligations.FetchErrorsAreFatal := fun _ _ _ hreach =>
  ⟨fun h => step_of_fetch_error hreach (fetch_of_refused_first h),
    fun _ h0 hs h => step_of_fetch_error hreach (fetch_of_refused_second h0 hs h)⟩

/-- Settles O5: the bytes placed are fetched from the cartridge, and the fetch reads a second half-word where the decoder does. -/
theorem loadedInstructionRunsAfterReset : Obligations.LoadedInstructionRunsAfterReset := by
  intro nbits w
  obtain ⟨first, second⟩ := codeAt_withFetchWord nbits w
  refine ⟨_, by rw [decodeTableWord, tableBytes, decodeBytes_four_bytes], ?_⟩
  refine step_of_fetch_ok (reachesFetch_self rfl rfl rfl rfl) (fetch_of_fetchedAt ⟨_, _, first, fun _ => second, ?_⟩)
  rw [fetchesSecond_of_admitted rfl]
  rcases instrLength_eq_two_or_four (halfOfBytes (byteOf (w % 2 ^ nbits) 0) (byteOf (w % 2 ^ nbits) 1)) with h | h <;> simp [h]

end Sys2Proof.Machine
end

section
/-! PROOFS. The statements on the flags of subtraction, logic and shifts (spec/10_state.md R45 to R47), on the conditions
(40_branch.md R200) and on the branches (R201 to R218). -/

namespace Sys2Proof.Machine

open Sys2Proof

/-! ### The fields of the PSW after a subtraction (R45) -/

section
variable (p a b : Word)

@[simp] theorem pswZ_setSubFlags : pswZ (setSubFlags p a b) = decide (a - b = 0#32) := getLsbD_setSubFlags p a b 0

@[simp] theorem pswS_setSubFlags : pswS (setSubFlags p a b) = (a - b).getLsbD 31 := getLsbD_setSubFlags p a b 1

@[simp] theorem pswOV_setSubFlags : pswOV (setSubFlags p a b) = ((a ^^^ b) &&& (a ^^^ (a - b))).getLsbD 31 :=
  getLsbD_setSubFlags p a b 2

@[simp] theorem pswCY_setSubFlags : pswCY (setSubFlags p a b) = decide (a.toNat < b.toNat) := getLsbD_setSubFlags p a b 3

/-- The overflow bit of R45 is set exactly where the signed difference does not fit a word. -/
theorem subOverflow_eq_decide_toInt_ne :
    ((a ^^^ b) &&& (a ^^^ (a - b))).getLsbD 31 = decide (a.toInt - b.toInt ≠ (a - b).toInt) := by
  rw [Bool.eq_iff_iff, decide_eq_true_iff, sub_overflow_iff, BitVec.toInt_sub, ne_bmod_two_pow_32_iff]

/-- Z after a subtraction is equality. -/
theorem pswZ_setSubFlags_iff : pswZ (setSubFlags p a b) = true ↔ a = b := by
  rw [pswZ_setSubFlags, decide_eq_true_iff]
  exact sub_eq_zero

/-- S and OV differ after a subtraction exactly where the first operand is the smaller one, signed. -/
theorem sign_xor_overflow_iff : (pswS (setSubFlags p a b) ^^ pswOV (setSubFlags p a b)) = true ↔ a.toInt < b.toInt := by
  have sign := getLsbD_31_iff (a - b)
  have overflow := sub_overflow_iff a b
  have difference : (a - b).toInt = (a.toInt - b.toInt).bmod (2 ^ 32) := BitVec.toInt_sub
  rw [Int.bmod_def] at difference
  have alo := BitVec.le_toInt a
  have ahi := BitVec.toInt_lt (x := a)
  have blo := BitVec.le_toInt b
  have bhi := BitVec.toInt_lt (x := b)
  rw [pswS_setSubFlags, pswOV_setSubFlags, Bool.xor_iff_ne, ne_eq, Bool.eq_iff_iff, sign, overflow]
  split at difference <;> omega

end

/-! ### The conditions (40_branch.md R200) -/

/-- A condition reads the four flags only. -/
theorem cond_congr (c : BitVec 4) {p q : Word} (h : ∀ i < 4, p.getLsbD i = q.getLsbD i) : cond c p = cond c q := by
  have z : pswZ p = pswZ q := h 0 (by decide)
  have s : pswS p = pswS q := h 1 (by decide)
  have ov : pswOV p = pswOV q := h 2 (by decide)
  have cy : pswCY p = pswCY q := h 3 (by decide)
  simp only [cond, z, s, ov, cy]

/-- The table of the conditions, for a PSW that holds the four flags only. -/
theorem cond_ofNat : ∀ k < 16, ∀ c : BitVec 4,
    cond c (BitVec.ofNat 32 k) = (condMasks.getD k 0#16).getLsbD c.toNat := by decide

/-- The low four bits of a word, as a word. -/
theorem getLsbD_ofNat_mod_16 (p : Word) {i : Nat} (hi : i < 4) :
    (BitVec.ofNat 32 (p.toNat % 16)).getLsbD i = p.getLsbD i := by
  rw [BitVec.getLsbD_ofNat, Nat.testBit_mod_two_pow p.toNat 4, decide_eq_true hi, decide_eq_true (show i < 32 by omega),
    Bool.true_and, Bool.true_and, BitVec.getLsbD]

/-! ### The branches (40_branch.md R217) -/

/-- Instructions that branch on code `c` and are encoded with it. -/
theorem branchesOn_of_exec {i : BitVec 9 → Instr} {c : BitVec 4} (h0 : ∀ d, word0 (i d) = formBranch c d)
    (h1 : ∀ d, word1 (i d) = none) (h : ∀ d s, exec (i d) s = branchOn c d s) : branchesOn i c := by
  intro d s
  refine ⟨⟨(h0 d).trans (formBranch_eq c d), h1 d⟩, ?_⟩
  rw [h d s, branchOn]
  cases hc : cond c s.psw with
  | true => exact ⟨_, rfl, frame_setPc_setCycles s _ _, fun _ => ⟨rfl, rfl⟩, nofun⟩
  | false => exact ⟨_, rfl, frame_setPc_setCycles s _ _, nofun, fun _ => ⟨rfl, rfl⟩⟩

/-! ### The statements -/

/-- Settles O30: each field is a bit of the PSW after the subtraction, and the overflow bit is signed overflow. -/
theorem subtractFlagRule : Obligations.SubtractFlagRule := by
  intro p a b
  have overflow : pswOV (setSubFlags p a b) = decide (a.toInt - b.toInt ≠ (a - b).toInt) :=
    (pswOV_setSubFlags p a b).trans (subOverflow_eq_decide_toInt_ne a b)
  exact ⟨pswCY_setSubFlags p a b, pswZ_setSubFlags p a b, pswS_setSubFlags p a b, pswOV_setSubFlags p a b, overflow,
    fun _ hi => getLsbD_setSubFlags_of_ge p a b hi⟩

/-- Settles O31: the bits of the PSW after either rule. -/
theorem logicAndShiftFlagRules : Obligations.LogicAndShiftFlagRules := by
  intro p r n c
  have logic (i : Nat) := getLsbD_setLogicFlags p r i
  have shift (i : Nat) := getLsbD_setShiftFlags p r n c i
  refine ⟨⟨logic 0, logic 1, logic 2, fun i hi => setLogicFlags_keeps p r i ?logic⟩, shift 0, shift 1, shift 2,
    fun hn => ?out, fun hn => ?kept, fun i hi => setShiftFlags_keeps p r n c i ?shift⟩
  case logic =>
    simp only [List.mem_cons, List.not_mem_nil, or_false]
    omega
  case shift =>
    simp only [flagBits, List.mem_cons, List.not_mem_nil, or_false]
    omega
  case out => rw [pswCY_setShiftFlags, if_neg hn.ne']
  case kept => rw [pswCY_setShiftFlags, if_pos hn]

/-- Settles O32: the condition reads the low four bits, and for these the table is run. -/
theorem conditionTable : Obligations.ConditionTable := by
  intro p c
  have low : cond c p = cond c (BitVec.ofNat 32 (p.toNat % 16)) :=
    cond_congr c fun i hi => (getLsbD_ofNat_mod_16 p hi).symm
  exact low.trans (cond_ofNat (p.toNat % 16) (Nat.mod_lt _ (by decide)) c)

/-- Settles O33: CY is the unsigned order, S against OV the signed one, Z equality; the rest are these combined. -/
theorem compareThenBranchOrders : Obligations.CompareThenBranchOrders := by
  intro p a b
  have equal := pswZ_setSubFlags_iff p a b
  have below : pswCY (setSubFlags p a b) = true ↔ a.toNat < b.toNat := by rw [pswCY_setSubFlags, decide_eq_true_iff]
  have less := sign_xor_overflow_iff p a b
  have equalNat : a = b ↔ a.toNat = b.toNat := BitVec.toNat_inj.symm
  have equalInt : a = b ↔ a.toInt = b.toInt := BitVec.toInt_inj.symm
  have belowOrEqual : (pswCY (setSubFlags p a b) || pswZ (setSubFlags p a b)) = true ↔ a.toNat ≤ b.toNat := by
    rw [Bool.or_eq_true, below, equal, equalNat]
    omega
  have lessOrEqual : ((pswS (setSubFlags p a b) ^^ pswOV (setSubFlags p a b)) || pswZ (setSubFlags p a b)) = true ↔
      a.toInt ≤ b.toInt := by
    rw [Bool.or_eq_true, less, equal, equalInt]
    omega
  have negated {x : Bool} {P Q : Prop} (h : x = true ↔ P) (hQ : Q ↔ ¬P) : (!x) = true ↔ Q := by
    rw [Bool.not_eq_true', ← Bool.not_eq_true, h, hQ]
  exact ⟨below, equal, belowOrEqual, less, lessOrEqual, negated below Nat.not_lt.symm, negated equal Iff.rfl,
    negated belowOrEqual Nat.not_le.symm, negated less Int.not_lt.symm, negated lessOrEqual Int.not_le.symm⟩

/-- Settles O46: the sixteen branches are one operation, each with its own code. -/
theorem branchesTakenByCondition : Obligations.BranchesTakenByCondition := by
  unfold Obligations.BranchesTakenByCondition
  refine ⟨?_, ?_, ?_, ?_, ?_, ?_, ?_, ?_, ?_, ?_, ?_, ?_, ?_, ?_, ?_, ?_⟩ <;>
    exact branchesOn_of_exec (fun _ => rfl) (fun _ => rfl) (fun _ _ => rfl)

end Sys2Proof.Machine
end

section
/-! PROOFS. The remaining statements on single instructions: addition (spec/41_arith_logic.md, 45_immediate16.md), SETF, MULU
(43_muldiv.md), jumps (44_jump_system.md, 46_longjump.md), RETI, TRAP and HALT, and the refused ones (48_subopcode.md); and the
default parameters (00_scope.md R8). -/

namespace Sys2Proof.Machine

open Sys2Proof

/-! ### Addition (10_state.md R44) -/

/-- A PSW that the addition rule left holds the flags of the addition. -/
theorem addFlags_of_psw (p : Word) {a b : Word} {t : State} (h : t.psw = setAddFlags p a b) : addFlags a b t := by
  rw [addFlags, h, pswCY_setAddFlags, pswOV_setAddFlags, decide_eq_true_iff, add_overflow_iff]
  exact ⟨zeroSign_intro (by rw [h, pswZ_setAddFlags]) (by rw [h, pswS_setAddFlags]), Iff.rfl, Iff.rfl⟩

/-- The addition rule keeps every bit but the four flags. -/
theorem setAddFlags_keeps (p a b : Word) : ∀ i, i ∉ flagBits → (setAddFlags p a b).getLsbD i = p.getLsbD i := by
  intro i hi
  simp only [flagBits, List.mem_cons, List.not_mem_nil, or_false, not_or] at hi
  exact getLsbD_setAddFlags_of_ge p a b (by omega)

/-- An instruction that applies the addition rule, writes the sum and ends is an addition. -/
theorem addsInto_of_exec {i : Instr} {s : State} {reg2 : Reg} {length a b : Word} {n : Nat}
    (h : exec i s = .next (((s.setPsw (setAddFlags s.psw a b)).setReg reg2 (a + b)).retire length n)) :
    addsInto i s reg2 length a b n := by
  refine ⟨_, h, wrote_setReg_retire _ reg2 _ _ _, addFlags_of_psw s.psw ?psw,
    frame_setPsw_setReg_retire s _ _ reg2 _ _ _ (setAddFlags_keeps s.psw a b), retired_retire ?pc _ _⟩
  case psw => rw [State.retire_psw, State.setReg_psw, State.setPsw_psw]
  case pc => rw [State.setReg_pc, State.setPsw_pc]

/-! ### The unsigned product (43_muldiv.md R292) -/

/-- The low word of a 64-bit natural number is its residue. -/
theorem extractLsb'_zero_ofNat (x : Nat) : (BitVec.ofNat 64 x).extractLsb' 0 32 = BitVec.ofNat 32 x := by
  apply BitVec.eq_of_toNat_eq
  rw [BitVec.extractLsb'_toNat, Nat.shiftRight_zero, BitVec.toNat_ofNat, BitVec.toNat_ofNat]
  omega

/-- The high word is its quotient by 2^32. -/
theorem extractLsb'_32_ofNat (x : Nat) : (BitVec.ofNat 64 x).extractLsb' 32 32 = BitVec.ofNat 32 (x / 2 ^ 32) := by
  apply BitVec.eq_of_toNat_eq
  rw [BitVec.extractLsb'_toNat, Nat.shiftRight_eq_div_pow, BitVec.toNat_ofNat, BitVec.toNat_ofNat]
  omega

/-- The high word of a product of two words is 0 exactly where the product fits the low one. -/
theorem ofNat_div_ne_zero_iff (a b : Word) :
    BitVec.ofNat 32 (a.toNat * b.toNat / 2 ^ 32) ≠ 0#32 ↔ 2 ^ 32 ≤ a.toNat * b.toNat := by
  have fits : a.toNat * b.toNat < 2 ^ 32 * 2 ^ 32 := Nat.mul_lt_mul'' a.isLt b.isLt
  rw [ne_eq, ← BitVec.toNat_inj, BitVec.toNat_ofNat]
  simp only [BitVec.toNat_ofNat]
  omega

/-- MULU ends with the two words of the exact product, and OV where the high one is not 0. -/
theorem exec_mulu (reg1 reg2 : Reg) (s : State) :
    exec (.mulu reg1 reg2) s =
      writeHiLo reg2 (BitVec.ofNat 32 ((s.reg reg2).toNat * (s.reg reg1).toNat / 2 ^ 32))
        (BitVec.ofNat 32 ((s.reg reg2).toNat * (s.reg reg1).toNat))
        (decide (BitVec.ofNat 32 ((s.reg reg2).toNat * (s.reg reg1).toNat / 2 ^ 32) ≠ 0#32)) s.config.cycles.mul s := by
  rw [← extractLsb'_32_ofNat, ← extractLsb'_zero_ofNat]
  rfl

/-! ### A register written before a jump (46_longjump.md R361) -/

/-- The register written holds its value, register 0 staying 0. -/
theorem wrote_setReg_setPc_setCycles (s : State) (r : Reg) (v q : Word) (n : Nat) :
    wrote r v (((s.setReg r v).setPc q).setCycles n) := by
  rw [wrote, State.setCycles_reg, State.setPc_reg, State.setReg_reg_same]

/-- Nothing but it, `pc` and the cycle count is written. -/
theorem frame_setReg_setPc_setCycles (s : State) (r : Reg) (v q : Word) (n : Nat) :
    frame [r] [] [] s (((s.setReg r v).setPc q).setCycles n) := by
  refine frame_intro (fun k hk => ?_) (fun i _ => by simp) (by simp [systemKept, controlKept, devicesKept])
  rw [List.mem_singleton] at hk
  rw [State.setCycles_reg, State.setPc_reg, State.setReg_reg_ne _ _ hk]

/-! ### Encodings (30_encoding.md R147, R150) -/

/-- An instruction of two half-words whose first one is an opcode and ten bits. -/
theorem encodes4_of_formLow10 {i : Instr} (op : BitVec 6) {u : BitVec 10} {w1 : Half} (h0 : word0 i = formLow10 op u)
    (h1 : word1 i = some w1) : encodes4 i ((op.setWidth 16 <<< 10) ||| u.setWidth 16) w1 :=
  ⟨h0.trans (formLow10_eq op u), h1⟩

/-- The refusal of a Format VII instruction carries its half-words (48_subopcode.md R402). -/
theorem refuseFormatVII_of_encodes4 {i : Instr} {w0 w1 : Half} (h : encodes4 i w0 w1) (name : String) (s : State) :
    refuseFormatVII name i s = .refused (.formatVII name s.pc w0 w1) := by
  obtain ⟨h0, h1⟩ := h
  rw [refuseFormatVII, h0, h1, Option.getD_some]

/-! ### The default interrupt type table (60_exceptions.md R502) -/

/-- No row of `ITYPES` differs from the default table. -/
theorem descriptorOf_reset (t : IntType) : descriptorOf State.reset.config t = defaultDescriptor t := rfl

/-- The code of a Trap row. -/
theorem defaultDescriptor_trap (v : BitVec 5) :
    defaultDescriptor (.trap v) =
      ⟨.trap v, BitVec.ofNat 16 (0xFFA0 + v.toNat), if v.toNat < 16 then 0xFFFFFFA0#32 else 0xFFFFFFB0#32, false, false, 5,
        none⟩ := by
  rw [defaultDescriptor, BitVec.ofNat_add, BitVec.ofNat_toNat]

/-- The code, handler, priority and level of a maskable row. -/
theorem defaultDescriptor_int (n : BitVec 4) :
    defaultDescriptor (.int n) =
      ⟨.int n, BitVec.ofNat 16 (0xFE00 + 16 * n.toNat), BitVec.ofNat 32 (0xFFFFFE00 + 16 * n.toNat), false, true,
        31 - n.toNat, some n.toNat⟩ := by
  have priority : 16 + (15 - n.toNat) = 31 - n.toNat := by have := n.isLt; omega
  rw [defaultDescriptor, priority, BitVec.ofNat_add, BitVec.ofNat_mul, BitVec.ofNat_toNat, BitVec.ofNat_add, BitVec.ofNat_mul,
    BitVec.ofNat_toNat]

/-! ### The statements -/

/-- Settles O19: the constants are read off, the rows of the interrupt table by their lemmas. -/
theorem defaultParameters : Obligations.DefaultParameters :=
  ⟨by decide, rfl, rfl, rfl, rfl, rfl, rfl, rfl, rfl, rfl, by decide, rfl, rfl, rfl, rfl, rfl, rfl, rfl, rfl, rfl,
    fun v => (descriptorOf_reset _).trans (defaultDescriptor_trap v),
    fun n => (descriptorOf_reset _).trans (defaultDescriptor_int n)⟩

/-- Settles O35: the three instructions are one addition; ADDI is one under the parameter, and illegal without it. -/
theorem addWritesSumAndFlags : Obligations.AddWritesSumAndFlags := by
  intro reg1 reg2 imm5 imm16 s
  refine ⟨⟨encodes2_of_formRegs 0x01#6 rfl rfl, addsInto_of_exec rfl⟩, ⟨encodes2_of_formRegs 0x11#6 rfl rfl, ?addImm⟩,
    ⟨encodes4_of_formRegs 0x29#6 rfl rfl, fun h => ?admitted, fun h => admitted_of_false h _⟩⟩
  case addImm =>
    rw [← sext_eq_ofInt_toInt]
    exact addsInto_of_exec rfl
  case admitted =>
    rw [← sext_eq_ofInt_toInt]
    exact addsInto_of_exec (admitted_of_true h _)

/-- Settles O38: under the parameter SETF is one register write. -/
theorem setfWritesCondition : Obligations.SetfWritesCondition := by
  intro v c reg2 s
  exact ⟨encodes2_of_formRegs 0x12#6 rfl rfl, fun h => ⟨_, admitted_of_true h _, wrote_setReg_retire s reg2 _ _ _,
    frame_setReg_retire s reg2 _ _ _, retired_retire (State.setReg_pc s reg2 _) _ _⟩⟩

/-- Settles O43: the pair is the 64-bit product, and OV says that its high word is not 0. -/
theorem multiplyUnsigned : Obligations.MultiplyUnsigned := by
  intro reg1 reg2 s
  refine ⟨encodes2_of_formRegs 0x0A#6 rfl rfl, writesPair_of_writeHiLo (exec_mulu reg1 reg2 s) ?overflow⟩
  rw [decide_eq_true_iff, ofNat_div_ne_zero_iff]

/-- Settles O47: each jump writes `pc`, and JAL the link register before it. -/
theorem jumpsReplacePc : Obligations.JumpsReplacePc := by
  intro reg1 u disp26 s
  rw [← sext_eq_ofInt_toInt]
  exact ⟨⟨encodes2_of_formRegs 0x06#6 rfl rfl, _, rfl, rfl, frame_setPc_setCycles s _ _, rfl⟩,
    ⟨encodes4_of_formLow10 0x2A#6 rfl rfl, _, rfl, rfl, frame_setPc_setCycles s _ _, rfl⟩,
    ⟨encodes4_of_formLow10 0x2B#6 rfl rfl, _, rfl, rfl, wrote_setReg_setPc_setCycles s _ _ _ _,
      frame_setReg_setPc_setCycles s _ _ _ _, rfl⟩⟩

/-- Settles O51: the state restored is known as one record. -/
theorem retiRestoresPair : Obligations.RetiRestoresPair := by
  intro u s
  refine ⟨encodes2_of_formLow10 0x19#6 rfl rfl, _, rfl, ?_⟩
  rw [returnFromException_eq]
  exact ⟨rfl, rfl, fun r _ => State.reg_congr rfl r, ⟨rfl, rfl, rfl, rfl, rfl, rfl, rfl⟩, ⟨rfl, rfl, rfl, rfl, rfl⟩,
    ⟨rfl, rfl, rfl⟩, fun _ _ => rfl, rfl⟩

/-- Settles O52: under the parameter both instructions have the meaning written. -/
theorem trapAndHalt : Obligations.TrapAndHalt := by
  intro v u5 u s
  exact ⟨encodes2_of_formRegs 0x18#6 rfl rfl, encodes2_of_formLow10 0x1A#6 rfl rfl,
    fun h => ⟨admitted_of_true h _, admitted_of_true h _⟩⟩

/-- Settles O60: the refusal of each carries the half-words its encoding gives. -/
theorem subOpcodedAreRefused : Obligations.SubOpcodedAreRefused := by
  intro r1 r2 u s
  have bitstring : encodes2 (.bitstring u) (0x7C00#16 ||| u.setWidth 16) := encodes2_of_formLow10 0x1F#6 rfl rfl
  have refused {i : Instr} {name : String} {w1 : Half} (he : encodes4 i (wordRegs 0xF800#16 r2 r1) w1)
      (h : exec i s = refuseFormatVII name i s) :
      encodes4 i (wordRegs 0xF800#16 r2 r1) w1 ∧
        exec i s = .refused (.formatVII name s.pc (wordRegs 0xF800#16 r2 r1) w1) :=
    ⟨he, h.trans (refuseFormatVII_of_encodes4 he name s)⟩
  refine ⟨⟨bitstring, ?_⟩, fun i name sub hi => ?_⟩
  · obtain ⟨h0, -⟩ := bitstring
    rw [← h0]
    rfl
  · simp only [List.mem_cons, Prod.mk.injEq, List.not_mem_nil, or_false] at hi
    obtain ⟨rfl, rfl, rfl⟩ | ⟨rfl, rfl, rfl⟩ | ⟨rfl, rfl, rfl⟩ | ⟨rfl, rfl, rfl⟩ | ⟨rfl, rfl, rfl⟩ | ⟨rfl, rfl, rfl⟩ |
      ⟨rfl, rfl, rfl⟩ | ⟨rfl, rfl, rfl⟩ | ⟨rfl, rfl, rfl⟩ | ⟨rfl, rfl, rfl⟩ | ⟨rfl, rfl, rfl⟩ | ⟨rfl, rfl, rfl⟩ := hi
    · exact refused (encodes4_of_formVII 0x00#6 rfl rfl) rfl
    · exact refused (encodes4_of_formVII 0x02#6 rfl rfl) rfl
    · exact refused (encodes4_of_formVII 0x03#6 rfl rfl) rfl
    · exact refused (encodes4_of_formVII 0x04#6 rfl rfl) rfl
    · exact refused (encodes4_of_formVII 0x05#6 rfl rfl) rfl
    · exact refused (encodes4_of_formVII 0x06#6 rfl rfl) rfl
    · exact refused (encodes4_of_formVII 0x07#6 rfl rfl) rfl
    · exact refused (encodes4_of_formVII 0x08#6 rfl rfl) rfl
    · exact refused (encodes4_of_formVII 0x09#6 rfl rfl) rfl
    · exact refused (encodes4_of_formVII 0x0A#6 rfl rfl) rfl
    · exact refused (encodes4_of_formVII 0x0B#6 rfl rfl) rfl
    · exact refused (encodes4_of_formVII 0x0C#6 rfl rfl) rfl

end Sys2Proof.Machine
end

section
/-! PROOFS. The statements on spec/47_loadstore.md: loads, stores, a store read back, and CAXI. -/

namespace Sys2Proof.Machine

open Sys2Proof

/-! ### The outcomes of a load and of a store (R386) -/

section
variable {i : Instr} {n : Width} {e : Word → Word} {d : Half} {r1 r2 : Reg} {s : State}

/-- A load whose read is answered. -/
theorem loadFrom_of_ok {v : Word} {u : State} (h : busRead n (effectiveAddress s r1 d) s = .ok (v, u)) :
    loadFrom i n e d r1 r2 s = .next ((u.setReg r2 (e v)).retire 4#32 s.config.cycles.load) := by
  simp only [loadFrom, h]

/-- A load whose read fails. -/
theorem loadFrom_of_error {k : BusErrorKind} (h : busRead n (effectiveAddress s r1 d) s = .error k) :
    loadFrom i n e d r1 r2 s = fatalBus i k (effectiveAddress s r1 d) s := by
  simp only [loadFrom, h]

/-- A store whose write is completed. -/
theorem storeTo_of_ok {u : State} (h : busWrite n (effectiveAddress s r1 d) (s.reg r2) s = .ok u) :
    storeTo i n r2 d r1 s = .next (u.retire 4#32 s.config.cycles.store) := by
  simp only [storeTo, h]

/-- A store whose write fails. -/
theorem storeTo_of_error {k : BusErrorKind} (h : busWrite n (effectiveAddress s r1 d) (s.reg r2) s = .error k) :
    storeTo i n r2 d r1 s = fatalBus i k (effectiveAddress s r1 d) s := by
  simp only [storeTo, h]

end

/-! ### Frames one after the other -/

section
variable {s u t : State}

theorem systemKept_trans (hu : systemKept s u) (ht : systemKept u t) : systemKept s t := by
  obtain ⟨u1, u2, u3, u4, u5, u6, u7⟩ := hu
  obtain ⟨t1, t2, t3, t4, t5, t6, t7⟩ := ht
  exact ⟨t1.trans u1, t2.trans u2, t3.trans u3, t4.trans u4, t5.trans u5, t6.trans u6, t7.trans u7⟩

theorem controlKept_trans (hu : controlKept s u) (ht : controlKept u t) : controlKept s t := by
  obtain ⟨u1, u2, u3, u4, u5⟩ := hu
  obtain ⟨t1, t2, t3, t4, t5⟩ := ht
  exact ⟨t1.trans u1, t2.trans u2, t3.trans u3, t4.trans u4, t5.trans u5⟩

theorem devicesKept_trans (hu : devicesKept s u) (ht : devicesKept u t) : devicesKept s t := by
  obtain ⟨u1, u2, u3⟩ := hu
  obtain ⟨t1, t2, t3⟩ := ht
  exact ⟨t1.trans u1, t2.trans u2, t3.trans u3⟩

/-- A bus request that leaves the engine alone, then the rest of the instruction. -/
theorem engineFrame_trans {regs : List Reg} {flags : List Nat} (hu : engineFrame [] [] s u)
    (ht : engineFrame regs flags u t) : engineFrame regs flags s t := by
  obtain ⟨uregs, upsw, usystem, ucontrol⟩ := hu
  obtain ⟨tregs, tpsw, tsystem, tcontrol⟩ := ht
  exact ⟨fun r hr => (tregs r hr).trans (uregs r List.not_mem_nil), fun b hb => (tpsw b hb).trans (upsw b List.not_mem_nil),
    systemKept_trans usystem tsystem, controlKept_trans ucontrol tcontrol⟩

/-- A frame leaves of the engine what it leaves of all. -/
theorem engineFrame_of_frame {regs : List Reg} {flags cells : List Nat} (h : frame regs flags cells s t) :
    engineFrame regs flags s t := by
  obtain ⟨hregs, hpsw, hsystem, hcontrol, -, -⟩ := h
  exact ⟨hregs, hpsw, hsystem, hcontrol⟩

/-- A write of memory cells, then the rest of the instruction. -/
theorem frame_trans {regs : List Reg} {flags cells : List Nat} (hu : frame [] [] cells s u) (ht : frame regs flags [] u t) :
    frame regs flags cells s t := by
  obtain ⟨hregs, hpsw, hsystem, hcontrol⟩ := engineFrame_trans (engineFrame_of_frame hu) (engineFrame_of_frame ht)
  obtain ⟨-, -, -, -, udevices, ubytes⟩ := hu
  obtain ⟨-, -, -, -, tdevices, tbytes⟩ := ht
  exact ⟨hregs, hpsw, hsystem, hcontrol, devicesKept_trans udevices tdevices,
    fun a ha => (tbytes a List.not_mem_nil).trans (ubytes a ha)⟩

end

/-! ### What the bus leaves of the engine (20_memory.md R100) -/

section
variable {s u : State} {n : Width} {a v : Word}

/-- A completed read asks a device at most. -/
theorem busRead_engine (h : busRead n a s = .ok (v, u)) : engineFrame [] [] s u ∧ u.pc = s.pc ∧ u.mem = s.mem := by
  obtain ⟨da, f, r, rfl⟩ := busRead_effect h
  exact ⟨⟨fun q _ => State.reg_congr rfl q, fun _ _ => rfl, ⟨rfl, rfl, rfl, rfl, rfl, rfl, rfl⟩,
    ⟨rfl, rfl, rfl, rfl, rfl⟩⟩, rfl, rfl⟩

/-- A completed write changes memory or asks a device. -/
theorem busWrite_engine (h : busWrite n a v s = .ok u) : engineFrame [] [] s u ∧ u.pc = s.pc := by
  obtain ⟨m, da, f, r, rfl, -⟩ := busWrite_effect h
  exact ⟨⟨fun q _ => State.reg_congr rfl q, fun _ _ => rfl, ⟨rfl, rfl, rfl, rfl, rfl, rfl, rfl⟩,
    ⟨rfl, rfl, rfl, rfl, rfl⟩⟩, rfl⟩

end

/-! ### Loads (R371 to R373, R377 to R379) -/

/-- An instruction that loads with `e` is a load with every `extend` that agrees with it on values of the width. -/
theorem loadsValue_of_exec {i : Instr} {n : Width} {e extend : Word → Word} {d : Half} {r1 r2 : Reg}
    (h : ∀ s, exec i s = loadFrom i n e d r1 r2 s) (he : ∀ v : Word, v.toNat < 2 ^ (8 * n.bytes) → e v = extend v) :
    loadsValue i n extend d r1 r2 := by
  intro s
  refine ⟨fun v u hb => ?ok, fun k hb => (h s).trans (loadFrom_of_error hb), fun start off backing ht => ?storage⟩
  case ok =>
    obtain ⟨engine, hpc, hmem⟩ := busRead_engine hb
    have next := (h s).trans (loadFrom_of_ok hb)
    rw [he v (busRead_bound hb)] at next
    refine ⟨_, next, wrote_setReg_retire u r2 _ _ _,
      engineFrame_trans engine (engineFrame_of_frame (frame_setReg_retire u r2 _ _ _)),
      fun b _ => ?_, ⟨?_, ?_, ?_⟩, retired_retire ((State.setReg_pc u r2 _).trans hpc) _ _⟩
    · rw [State.retire_mem, State.setReg_mem, hmem]
    · rw [State.retire_deviceAnswers, State.setReg_deviceAnswers]
    · rw [State.retire_deviceRequests, State.setReg_deviceRequests]
    · rw [State.retire_freeIndex, State.setReg_freeIndex]
  case storage => rw [busRead_storage ht, readBytes_stored]

/-- A value of a narrower width is its own residue, so the zero extension of IN leaves it as it is. -/
theorem eq_ofNat_mod_of_lt {v : Word} {k : Nat} (h : v.toNat < 2 ^ k) : v = BitVec.ofNat 32 (v.toNat % 2 ^ k) := by
  rw [Nat.mod_eq_of_lt h, BitVec.ofNat_toNat, BitVec.setWidth_eq]

/-! ### Stores (R374 to R376, R383 to R385) -/

/-- A write to storage changes the cells of the access only. -/
theorem frame_withMem (s : State) (start off backing : Nat) (v : Word) (n : Width) :
    frame [] [] (accessCells start off backing n) s { s with mem := writeBytes s.mem start off backing v n.bytes } :=
  ⟨fun q _ => State.reg_congr rfl q, fun _ _ => rfl, ⟨rfl, rfl, rfl, rfl, rfl, rfl, rfl⟩, ⟨rfl, rfl, rfl, rfl, rfl⟩,
    ⟨rfl, rfl, rfl⟩, fun _ ha => read_writeBytes_outside ha⟩

/-- An instruction that stores is a store. -/
theorem storesValue_of_exec {i : Instr} {n : Width} {r2 : Reg} {d : Half} {r1 : Reg}
    (h : ∀ s, exec i s = storeTo i n r2 d r1 s) : storesValue i n r2 d r1 := by
  intro s
  refine ⟨fun u hb => ?ok, fun k hb => (h s).trans (storeTo_of_error hb), fun start off backing ht => ?storage⟩
  case ok =>
    obtain ⟨engine, hpc⟩ := busWrite_engine hb
    exact ⟨_, (h s).trans (storeTo_of_ok hb), engineFrame_trans engine (engineFrame_of_frame (frame_setPc_setCycles u _ _)),
      fun _ _ => rfl, ⟨rfl, rfl, rfl⟩, retired_retire hpc _ _⟩
  case storage =>
    exact ⟨_, (h s).trans (storeTo_of_ok (busWrite_storage ht)),
      fun k hk hlast => read_writeBytes_last _ _ _ _ _ _ k hk hlast,
      frame_trans (frame_withMem s start off backing _ n) (frame_setPc_setCycles _ _ _), retired_retire rfl _ _⟩

/-! ### A stored word read back (20_memory.md R106, R111) -/

/-- Equal offsets modulo the backing are the same cells, byte by byte: the mirrors of a region. -/
theorem cellAddress_mirror {start off off' backing k : Nat} (h : off' % backing = (off + k) % backing) (j : Nat) :
    cellAddress start off' backing j = cellAddress start off backing (k + j) := by
  rw [cellAddress, cellAddress, Nat.add_mod, h, ← Nat.add_mod, Nat.add_assoc]

/-- The bytes of a value from byte `k` on, as many as the width has, little-endian. -/
theorem readBytes_writeBytes_mirror (m : Memory) {start off off' backing k : Nat} {n : Width} (v : Word) (hb : 4 ≤ backing)
    (hk : k + n.bytes ≤ 4) (h : off' % backing = (off + k) % backing) :
    readBytes (writeBytes m start off backing v 4) start off' backing n.bytes =
      BitVec.ofNat 32 (v.toNat / 2 ^ (8 * k) % 2 ^ (8 * n.bytes)) := by
  apply BitVec.eq_of_getLsbD_eq
  intro i hi
  rw [getLsbD_readBytes _ _ _ _ _ _ (by omega), BitVec.getLsbD_ofNat, decide_eq_true hi, Bool.true_and,
    Nat.testBit_mod_two_pow, Nat.testBit_div_two_pow]
  by_cases hin : i < 8 * n.bytes
  · have hbit : 8 * (k + i / 8) + i % 8 = i + 8 * k := by omega
    rw [cellAddress_mirror h, read_writeBytes_cell _ _ _ _ _ _ _ hb (by omega), BitVec.getLsbD_extractLsb',
      decide_eq_true (show i % 8 < 8 by omega), Bool.true_and, hbit, BitVec.getLsbD]
  · rw [decide_eq_false hin, Bool.false_and, Bool.false_and]

/-! ### CAXI (R382) -/

section
variable {d : Half} {r1 r2 : Reg} {s s1 s2 : State} {m : Word}

/-- Z of the comparison chooses the word written: the exchange value where the word read is the old `reg2`. -/
theorem exchange_value (s : State) (r2 : Reg) (m : Word) :
    (if pswZ (setSubFlags s.psw (s.reg r2) m) then s.reg exchangeReg else m) =
      if s.reg r2 = m then s.reg 30#5 else m := by
  simp only [pswZ_setSubFlags_iff]
  rfl

/-- CAXI with both requests completed. -/
theorem exec_caxi_of_ok (ha : s.config.admitGkInstr = true)
    (hr : busRead .word (effectiveAddress s r1 d) s = .ok (m, s1))
    (hw : busWrite .word (effectiveAddress s r1 d) (if s.reg r2 = m then s.reg 30#5 else m) s1 = .ok s2) :
    exec (.caxi d r1 r2) s =
      .next (((s2.setPsw (setSubFlags s.psw (s.reg r2) m)).setReg r2 m).retire 4#32 s.config.cycles.caxi) := by
  simp only [exec, execCaxi, admitted_of_true ha, hr, exchange_value, hw]

/-- CAXI whose read fails. -/
theorem exec_caxi_of_read_error (ha : s.config.admitGkInstr = true) {k : BusErrorKind}
    (hr : busRead .word (effectiveAddress s r1 d) s = .error k) :
    exec (.caxi d r1 r2) s = fatalBus (.caxi d r1 r2) k (effectiveAddress s r1 d) s := by
  simp only [exec, execCaxi, admitted_of_true ha, hr]

/-- CAXI whose write fails. -/
theorem exec_caxi_of_write_error (ha : s.config.admitGkInstr = true) {k : BusErrorKind}
    (hr : busRead .word (effectiveAddress s r1 d) s = .ok (m, s1))
    (hw : busWrite .word (effectiveAddress s r1 d) (if s.reg r2 = m then s.reg 30#5 else m) s1 = .error k) :
    exec (.caxi d r1 r2) s = fatalBus (.caxi d r1 r2) k (effectiveAddress s r1 d) s := by
  simp only [exec, execCaxi, admitted_of_true ha, hr, exchange_value, hw]

/-- The end of CAXI over the state the write left: the destination and the four flags change, and nothing else of that state. -/
theorem frame_caxi (h : engineFrame [] [] s s2) (a b v : Word) (n : Nat) :
    frame [r2] flagBits [] s2 (((s2.setPsw (setSubFlags s.psw a b)).setReg r2 v).retire 4#32 n) := by
  obtain ⟨-, hpsw, -, -⟩ := h
  exact frame_setPsw_setReg_retire s2 _ _ r2 _ _ _ fun i hi =>
    (setSubFlags_keeps s.psw a b i hi).trans (hpsw i List.not_mem_nil).symm

/-- That end sets the flags of the comparison. -/
theorem subFlags_caxi (a b v : Word) (n : Nat) :
    subFlags a b (((s2.setPsw (setSubFlags s.psw a b)).setReg r2 v).retire 4#32 n) :=
  subFlags_of_psw s.psw (by rw [State.retire_psw, State.setReg_psw, State.setPsw_psw])

end

/-! ### The statements -/

/-- Settles O56: the six loads are one operation; LD.B and LD.H extend the sign, IN leaves the value as the bus answers it. -/
theorem loadsExtendBusAnswer : Obligations.LoadsExtendBusAnswer := by
  intro disp16 reg1 reg2
  exact ⟨⟨encodes4_of_formRegs 0x30#6 rfl rfl, loadsValue_of_exec (fun _ => rfl) fun _ _ => rfl⟩,
    ⟨encodes4_of_formRegs 0x31#6 rfl rfl, loadsValue_of_exec (fun _ => rfl) fun _ _ => rfl⟩,
    ⟨encodes4_of_formRegs 0x33#6 rfl rfl, loadsValue_of_exec (fun _ => rfl) fun _ _ => rfl⟩,
    ⟨encodes4_of_formRegs 0x38#6 rfl rfl, loadsValue_of_exec (fun _ => rfl) fun _ hv => eq_ofNat_mod_of_lt hv⟩,
    ⟨encodes4_of_formRegs 0x39#6 rfl rfl, loadsValue_of_exec (fun _ => rfl) fun _ hv => eq_ofNat_mod_of_lt hv⟩,
    ⟨encodes4_of_formRegs 0x3B#6 rfl rfl, loadsValue_of_exec (fun _ => rfl) fun _ _ => rfl⟩⟩

/-- Settles O57: the six stores are one operation. -/
theorem storesWriteLowBytes : Obligations.StoresWriteLowBytes := by
  intro disp16 reg1 reg2
  exact ⟨⟨encodes4_of_formRegs 0x34#6 rfl rfl, storesValue_of_exec fun _ => rfl⟩,
    ⟨encodes4_of_formRegs 0x35#6 rfl rfl, storesValue_of_exec fun _ => rfl⟩,
    ⟨encodes4_of_formRegs 0x37#6 rfl rfl, storesValue_of_exec fun _ => rfl⟩,
    ⟨encodes4_of_formRegs 0x3C#6 rfl rfl, storesValue_of_exec fun _ => rfl⟩,
    ⟨encodes4_of_formRegs 0x3D#6 rfl rfl, storesValue_of_exec fun _ => rfl⟩,
    ⟨encodes4_of_formRegs 0x3F#6 rfl rfl, storesValue_of_exec fun _ => rfl⟩⟩

/-- Settles O58: the read meets the cells the write filled, whichever mirror it goes through. -/
theorem storeThenLoadMirrors : Obligations.StoreThenLoadMirrors := by
  intro s u addr addr' v start off off' backing k n hb hk hoff hwrite hu hread
  obtain rfl := Except.ok.inj ((busWrite_storage hwrite).symm.trans hu)
  have bytes := readBytes_writeBytes_mirror (start := start) s.mem v hb hk hoff
  have answer := busRead_storage (s := { s with mem := writeBytes s.mem start off backing v 4 }) hread
  rw [bytes] at answer
  exact answer

/-- Settles O59: the two requests one after the other, then the register and the flags. -/
theorem caxiExchanges : Obligations.CaxiExchanges := by
  intro disp16 reg1 reg2 s
  refine ⟨encodes4_of_formRegs 0x3A#6 rfl rfl, fun ha => ⟨fun m s1 s2 hr hw => ?ok, fun start off backing htr htw => ?storage,
    fun k hr => exec_caxi_of_read_error ha hr, fun m s1 k hr hw => exec_caxi_of_write_error ha hr hw⟩⟩
  case ok =>
    obtain ⟨readEngine, readPc, -⟩ := busRead_engine hr
    obtain ⟨writeEngine, writePc⟩ := busWrite_engine hw
    have engine := engineFrame_trans readEngine writeEngine
    have rest := frame_caxi (r2 := reg2) engine (s.reg reg2) m m s.config.cycles.caxi
    have ⟨_, _, _, _, hdevices, hbytes⟩ := rest
    exact ⟨_, exec_caxi_of_ok ha hr hw, wrote_setReg_retire _ reg2 m _ _, subFlags_caxi _ m m _,
      engineFrame_trans engine (engineFrame_of_frame rest), hbytes, hdevices,
      retired_retire (by rw [State.setReg_pc, State.setPsw_pc, writePc, readPc]) _ _⟩
  case storage =>
    have hr := busRead_storage htr
    rw [readBytes_stored] at hr
    have memory (v : Word) := frame_withMem s start off backing v .word
    refine ⟨_, exec_caxi_of_ok ha hr (busWrite_storage htw), wrote_setReg_retire _ reg2 _ _ _, fun k hk hlast => ?_,
      frame_trans (memory _) (frame_caxi (engineFrame_of_frame (memory _)) _ _ _ _)⟩
    rw [State.retire_mem, State.setReg_mem, State.setPsw_mem]
    exact read_writeBytes_last _ _ _ _ _ _ k hk hlast

end Sys2Proof.Machine
end
